-- ==== Sys2Proof/Word.lean ====
section
/-! DEFINITION. The word types of the machine (00_scope.md R9 to R12): field values, window words, register
indices, and the reading of a field value as an integer. -/

namespace Sys2Proof

/-- A field register's contents: 448 bits, any value, normalized or not (R20, R21). -/
abbrev FieldVal := BitVec 448

/-- A 32-bit word of the register window, or a command word (R50, R70). -/
abbrev Word := BitVec 32

/-- The index of one of the sixteen field registers F0 .. F15 (R20). -/
abbrev FReg := Fin 16

/-- `val(x)`: the integer a 448-bit value stands for (R11). -/
abbrev val (x : FieldVal) : Nat := x.toNat

/-- `enc(v)`: the 448-bit value of an integer below 2^448 (R11). -/
abbrev enc (v : Nat) : FieldVal := BitVec.ofNat 448 v

end Sys2Proof
end

