-- ==== Sys2Proof/Machine/Hidden.lean ====
section
/-! DEFINITION. The hidden registers (10_state.md R32, R33): the ladder controller's working registers and the field
unit's accumulator and inversion temporary. No host access and no other command reads or writes them. -/

namespace Sys2Proof.Machine

/-- The hidden registers. Their contents between commands are unspecified and unobservable (R32, R33). -/
structure Hidden where
  /-- The point's x-coordinate, constant through a ladder. -/
  x1 : FieldVal
  x2 : FieldVal
  z2 : FieldVal
  x3 : FieldVal
  z3 : FieldVal
  /-- The scalar copy: clamped for X448, as given for LADDER. -/
  kc : FieldVal
  /-- The deferred-swap bit. -/
  swap : Bool
  /-- The bit index, 447 down to 0. -/
  i : Fin 448
  a : FieldVal
  b : FieldVal
  c : FieldVal
  d : FieldVal
  aa : FieldVal
  cc : FieldVal
  da : FieldVal
  cb : FieldVal
  e : FieldVal
  t : FieldVal
  /-- The 112-byte product accumulator (R33). -/
  acc : BitVec 896
  /-- FINV's temporary (R33). -/
  finvT : FieldVal
  deriving DecidableEq, Repr, Inhabited

/-- Every hidden register zero: what the model starts them at. DESIGN CHOICE, unsafe, log entry 2. -/
def Hidden.zero : Hidden :=
  { x1 := 0, x2 := 0, z2 := 0, x3 := 0, z3 := 0, kc := 0, swap := false, i := 0,
    a := 0, b := 0, c := 0, d := 0, aa := 0, cc := 0, da := 0, cb := 0, e := 0, t := 0,
    acc := 0, finvT := 0 }

end Sys2Proof.Machine
end

