-- ==== Sys2Proof/Config.lean ====
section
/-! DEFINITION. What an implementation fixes and the spec leaves open (00_scope.md R9): BASE, LAT[opc] and P_REP, and the
free values of the hidden registers. None has a value here: nothing in Lean can compute one. -/

namespace Sys2Proof

/-- A use of P_REP: the operation and its operand values, and nothing else (40_field_arith.md R101). -/
inductive RepCall where
  | fadd (a b : FieldVal)
  | fsub (a b : FieldVal)
  | fmulc (a : FieldVal)
  | fmul (a b : FieldVal)
  deriving DecidableEq, Repr

/-- An instance of P_REP. A result has at most two 448-bit representatives, its residue `c` and, where that is below
2^448, `c + p` (R100); an instance says for each use whether it returns the second where there are two. Every such
function is a lawful instance of R101, and every lawful instance is such a function. -/
abbrev PRep := RepCall → Bool

/-- P_REP of the machine (R101), a free value: every lawful instance is allowed. Safe, log entry 5. -/
opaque Config.pRep : PRep

/-- BASE, the platform's address of the register window (20_memory.md R50). No rule of a step depends on it. -/
opaque Config.base : Nat

/-- LAT[opc] less one: the latency is any integer of at least 1 that depends on the opcode alone
(70_reset_and_hazards.md R239). -/
opaque Config.latLessOne : BitVec 8 → Nat

/-- LAT[opc], in cycles. The model has no time and no step depends on it (R239). Log entry 8. -/
def Config.lat (opc : BitVec 8) : Nat := Config.latLessOne opc + 1

/-- What the hidden registers hold after the `n`-th command that uses any of them: unspecified (10_state.md R32, R33;
93_implementation_defined.md K8), so free. Safe, log entry 3. -/
opaque Config.freeHidden : Nat → Machine.Hidden

end Sys2Proof
end

