-- ==== Sys2Proof/Syntax.lean ====
section
/-! DEFINITION. The thirteen commands (30_encoding.md R72), one constructor per row of the opcode table. Operands
are the ones R73 names; a reserved-zero field is no operand. -/

namespace Sys2Proof

/-- A command. `rd`, `rs1`, `rs2` name field registers (R71); `b` is FCSWAP's swap bit. -/
inductive Instr where
  /-- OPC 0x00 (R160). -/
  | nop
  /-- OPC 0x01 (R110). -/
  | fnorm (rd rs1 : FReg)
  /-- OPC 0x02 (R111). -/
  | fcopy (rd rs1 : FReg)
  /-- OPC 0x03 (R112). -/
  | fcswap (rs1 rs2 : FReg) (b : Bool)
  /-- OPC 0x04 (R113). -/
  | fadd (rd rs1 rs2 : FReg)
  /-- OPC 0x05 (R114). -/
  | fsub (rd rs1 rs2 : FReg)
  /-- OPC 0x06 (R115). -/
  | fmulc (rd rs1 : FReg)
  /-- OPC 0x07 (R116). -/
  | fmul (rd rs1 rs2 : FReg)
  /-- OPC 0x08 (R117). -/
  | fsqr (rd rs1 : FReg)
  /-- OPC 0x09 (R118). -/
  | finv (rd rs1 : FReg)
  /-- OPC 0x10 (R153). -/
  | clamp (rd rs1 : FReg)
  /-- OPC 0x11 (R158): `rs1` holds the point, `rs2` the scalar. -/
  | ladder (rd rs1 rs2 : FReg)
  /-- OPC 0x12 (R159): `rs1` holds the point, `rs2` the scalar. -/
  | x448 (rd rs1 rs2 : FReg)
  deriving DecidableEq, Repr

end Sys2Proof
end

