-- ==== Sys2Proof/WellFormed.lean ====
section
/-! DEFINITION. The fields of a command word (30_encoding.md R70) and which of them a command must leave zero (R73).
A term of `Instr` carries only operands, and every operand value is legal (R71), so the check is on the fields
of a word: `CmdFields.wellFormed` is R73 written field by field, apart from the masks of R72 that the decoder
uses. -/

namespace Sys2Proof

/-- The six fields of a command word (R70). -/
structure CmdFields where
  opc : BitVec 8
  rd  : BitVec 4
  rs1 : BitVec 4
  rs2 : BitVec 4
  b   : BitVec 1
  rsv : BitVec 11
  deriving DecidableEq, Repr

/-- Which fields a command uses (R73). -/
inductive CmdShape where
  /-- NOP: no operand. -/
  | none
  /-- FNORM, FCOPY, FMULC, FSQR, FINV, CLAMP: RD and RS1. -/
  | two
  /-- FADD, FSUB, FMUL, LADDER, X448: RD, RS1 and RS2. -/
  | three
  /-- FCSWAP: RS1, RS2 and B. -/
  | swap
  deriving DecidableEq, Repr

/-- The shape of a mapped opcode; `none` for a reserved one (R72, R74). -/
def opcShape (opc : BitVec 8) : Option CmdShape :=
  match opc.toNat with
  | 0x00 => some .none
  | 0x01 => some .two
  | 0x02 => some .two
  | 0x03 => some .swap
  | 0x04 => some .three
  | 0x05 => some .three
  | 0x06 => some .two
  | 0x07 => some .three
  | 0x08 => some .two
  | 0x09 => some .two
  | 0x10 => some .two
  | 0x11 => some .three
  | 0x12 => some .three
  | _    => Option.none

/-- Every field the shape does not use is zero (R73). -/
def CmdFields.reservedZero (f : CmdFields) : CmdShape → Bool
  | .none  => f.rd == 0 && f.rs1 == 0 && f.rs2 == 0 && f.b == 0 && f.rsv == 0
  | .two   => f.rs2 == 0 && f.b == 0 && f.rsv == 0
  | .three => f.b == 0 && f.rsv == 0
  | .swap  => f.rd == 0 && f.rsv == 0

/-- The fields are those of a legal command word: a mapped opcode, and its reserved-zero fields zero (R73, R74). -/
def CmdFields.wellFormed (f : CmdFields) : Bool :=
  match opcShape f.opc with
  | some k      => f.reservedZero k
  | Option.none => false

end Sys2Proof
end

