-- ==== Sys2Proof/Decode.lean ====
section
/-! DEFINITION. Decoding a command word by the mask and match columns of 30_encoding.md R72, total on every word and on
every list of bytes, and the encoder. -/

namespace Sys2Proof

/-- Why a word is no command. -/
inductive DecodeError where
  /-- The opcode is reserved (R74). -/
  | illegalOpcode
  /-- The opcode is mapped and a reserved-zero field is not zero (R75). -/
  | reservedField
  /-- Not four bytes: a command is one 32-bit word and has no other length (R70). -/
  | wrongLength
  deriving DecidableEq, Repr

/-- The fields of a word (R70). -/
def CmdFields.ofWord (w : Word) : CmdFields :=
  { opc := w.extractLsb' 0 8
    rd  := w.extractLsb' 8 4
    rs1 := w.extractLsb' 12 4
    rs2 := w.extractLsb' 16 4
    b   := w.extractLsb' 20 1
    rsv := w.extractLsb' 21 11 }

/-- The word of six fields, bit 31 first: RSV, B, RS2, RS1, RD, OPC (R70). -/
def CmdFields.toWord (f : CmdFields) : Word :=
  f.rsv ++ f.b ++ f.rs2 ++ f.rs1 ++ f.rd ++ f.opc

/-- RD as a register index (R71). -/
def CmdFields.regD (f : CmdFields) : FReg := f.rd.toFin

/-- RS1 as a register index (R71). -/
def CmdFields.reg1 (f : CmdFields) : FReg := f.rs1.toFin

/-- RS2 as a register index (R71). -/
def CmdFields.reg2 (f : CmdFields) : FReg := f.rs2.toFin

/-- The swap bit B (R71). -/
def CmdFields.bit (f : CmdFields) : Bool := f.b == 1

/-- One row of the opcode map (R72). -/
structure OpRow where
  opc   : BitVec 8
  mask  : Word
  value : Word
  build : CmdFields → Instr

/-- The opcode map, in the table's order (R72). -/
def opcodeMap : List OpRow :=
  [ ⟨0x00, 0xFFFFFFFF, 0x00000000, fun _ => .nop⟩,
    ⟨0x01, 0xFFFF00FF, 0x00000001, fun f => .fnorm f.regD f.reg1⟩,
    ⟨0x02, 0xFFFF00FF, 0x00000002, fun f => .fcopy f.regD f.reg1⟩,
    ⟨0x03, 0xFFE00FFF, 0x00000003, fun f => .fcswap f.reg1 f.reg2 f.bit⟩,
    ⟨0x04, 0xFFF000FF, 0x00000004, fun f => .fadd f.regD f.reg1 f.reg2⟩,
    ⟨0x05, 0xFFF000FF, 0x00000005, fun f => .fsub f.regD f.reg1 f.reg2⟩,
    ⟨0x06, 0xFFFF00FF, 0x00000006, fun f => .fmulc f.regD f.reg1⟩,
    ⟨0x07, 0xFFF000FF, 0x00000007, fun f => .fmul f.regD f.reg1 f.reg2⟩,
    ⟨0x08, 0xFFFF00FF, 0x00000008, fun f => .fsqr f.regD f.reg1⟩,
    ⟨0x09, 0xFFFF00FF, 0x00000009, fun f => .finv f.regD f.reg1⟩,
    ⟨0x10, 0xFFFF00FF, 0x00000010, fun f => .clamp f.regD f.reg1⟩,
    ⟨0x11, 0xFFF000FF, 0x00000011, fun f => .ladder f.regD f.reg1 f.reg2⟩,
    ⟨0x12, 0xFFF000FF, 0x00000012, fun f => .x448 f.regD f.reg1 f.reg2⟩ ]

/-- Decodes a command word: the opcode is looked up first, then the reserved-zero fields are checked (R76, R78). -/
def decodeWord (w : Word) : Except DecodeError Instr :=
  match opcodeMap.find? (fun r => r.opc == w.extractLsb' 0 8) with
  | none   => .error .illegalOpcode
  | some r => if w &&& r.mask = r.value then .ok (r.build (CmdFields.ofWord w)) else .error .reservedField

/-- Decodes the bytes of a command, least significant byte first (R55). -/
def decodeBytes : List (BitVec 8) → Except DecodeError Instr
  | [b0, b1, b2, b3] => decodeWord (b3 ++ b2 ++ b1 ++ b0)
  | _                => .error .wrongLength

/-- The instruction the decoder reads from table bits `w` (bit 0 the least significant bit of the word), `nbits` of
them given and the rest of the 32 zero. -/
def decodeTableWord (nbits w : Nat) : Option Instr :=
  let bits := w % 2 ^ nbits
  match decodeBytes ((List.range (max 4 ((nbits + 7) / 8))).map fun k => BitVec.ofNat 8 (bits / 256 ^ k)) with
  | .ok i    => some i
  | .error _ => none

/-- The opcode of a command (R72). -/
def Instr.opc : Instr → BitVec 8
  | .nop          => 0x00
  | .fnorm _ _    => 0x01
  | .fcopy _ _    => 0x02
  | .fcswap _ _ _ => 0x03
  | .fadd _ _ _   => 0x04
  | .fsub _ _ _   => 0x05
  | .fmulc _ _    => 0x06
  | .fmul _ _ _   => 0x07
  | .fsqr _ _     => 0x08
  | .finv _ _     => 0x09
  | .clamp _ _    => 0x10
  | .ladder _ _ _ => 0x11
  | .x448 _ _ _   => 0x12

/-- The fields of a two-operand command (R73). -/
def fieldsTwo (opc : BitVec 8) (rd rs1 : FReg) : CmdFields :=
  ⟨opc, BitVec.ofFin rd, BitVec.ofFin rs1, 0, 0, 0⟩

/-- The fields of a three-operand command (R73). -/
def fieldsThree (opc : BitVec 8) (rd rs1 rs2 : FReg) : CmdFields :=
  ⟨opc, BitVec.ofFin rd, BitVec.ofFin rs1, BitVec.ofFin rs2, 0, 0⟩

/-- The fields of a command's word, unused ones zero (R73). -/
def Instr.fields (i : Instr) : CmdFields :=
  match i with
  | .nop              => ⟨i.opc, 0, 0, 0, 0, 0⟩
  | .fnorm rd rs1     => fieldsTwo i.opc rd rs1
  | .fcopy rd rs1     => fieldsTwo i.opc rd rs1
  | .fcswap rs1 rs2 b => ⟨i.opc, 0, BitVec.ofFin rs1, BitVec.ofFin rs2, BitVec.ofBool b, 0⟩
  | .fadd rd rs1 rs2  => fieldsThree i.opc rd rs1 rs2
  | .fsub rd rs1 rs2  => fieldsThree i.opc rd rs1 rs2
  | .fmulc rd rs1     => fieldsTwo i.opc rd rs1
  | .fmul rd rs1 rs2  => fieldsThree i.opc rd rs1 rs2
  | .fsqr rd rs1      => fieldsTwo i.opc rd rs1
  | .finv rd rs1      => fieldsTwo i.opc rd rs1
  | .clamp rd rs1     => fieldsTwo i.opc rd rs1
  | .ladder rd rs1 rs2 => fieldsThree i.opc rd rs1 rs2
  | .x448 rd rs1 rs2  => fieldsThree i.opc rd rs1 rs2

/-- The word of a command (R70, R72). -/
def encode (i : Instr) : Word := i.fields.toWord

end Sys2Proof
end

