-- ==== Sys2Proof/Machine/State.lean ====
section
/-! DEFINITION. The machine's state (10_state.md R20 to R38), the host's operations it waits for, and the state after reset
(R37). -/

namespace Sys2Proof.Machine

/-- Why a step stops. Every error of the spec is a next state (60_exceptions.md R207); only an access that no window
holds stops a run. -/
inductive Fault where
  /-- Raised by a host access whose offset is 0x1000 or more: outside the window (20_memory.md R50). Safe: it stops
  where the platform would route the access elsewhere. Log entry 10. -/
  | outsideWindow
  deriving DecidableEq, Repr

/-- Why an instruction has no meaning. -/
inductive Refusal where
  /-- Raised by exec's arm of an instruction that is not modelled yet. Safe: nothing is claimed. No arm raises it. -/
  | notModelled (mnemonic : String)
  deriving DecidableEq, Repr

/-- The width of a host access (10_state.md R29). -/
inductive AccessSize where
  /-- 8 bits. -/
  | byte
  /-- 16 bits. -/
  | half
  /-- 32 bits, the one legal width (R56). -/
  | word
  /-- Any other size the bus can present. -/
  | other
  deriving DecidableEq, Repr

/-- A read, or a write of a value. The value of a write that is not 32 bits wide is never used (R56). -/
inductive AccessKind where
  | read
  | write (v : Word)
  deriving DecidableEq, Repr

/-- One host access: its byte offset from BASE, its width, and what it does. -/
structure Access where
  off  : Nat
  size : AccessSize
  kind : AccessKind
  deriving DecidableEq, Repr

/-- What the outside does to the machine, in the one total order of events (20_memory.md R61). Log entry 6. -/
inductive HostOp where
  /-- One host access. -/
  | access (a : Access)
  /-- The engine's completion, if one is pending, is ordered here, before the host's next operation (R63). -/
  | engine
  /-- WAIT (30_encoding.md R81): reads of STATUS until BUSY is 0. `polls` more of them see BUSY = 1 before the
  completion comes; every number is possible, as LAT is open. -/
  | wait (polls : Nat)
  /-- The reset input is asserted and released (70_reset_and_hazards.md R230). -/
  | reset
  deriving DecidableEq, Repr

/-- The state of one engine instance (10_state.md R38), its hidden registers (R32, R33), and the model's own fields
`inbox`, `rdata`, `tick` and `runFault`. -/
structure State where
  /-- F0 .. F15 (R20). -/
  f        : Vector FieldVal 16
  /-- Bit `j` of entry `n`: word `j` of F[n] has been written since reset (R23; 20_memory.md R52). -/
  written  : Vector (BitVec 14) 16
  /-- STATUS.BUSY (R25). -/
  busy     : Bool
  /-- STATUS.DONE (R26). -/
  done     : Bool
  /-- STATUS.ERR (R24). -/
  err      : Bool
  /-- STATUS.ERRCODE (R24). -/
  errcode  : BitVec 4
  /-- ERRINFO (R29). -/
  errinfo  : Word
  /-- CTRL.IE (R27). -/
  ie       : Bool
  /-- LASTCMD, read at CMD (R28). -/
  lastcmd  : Word
  /-- PEND, the command latch (R31). -/
  pend     : Option Instr
  /-- The hidden registers (R32, R33). -/
  hidden   : Hidden
  /-- The model's own: the outside's operations still to come, the next one first. -/
  inbox    : List HostOp
  /-- The model's own: the word the last host read returned. -/
  rdata    : Word
  /-- The model's own: how many times the hidden registers have taken free values. -/
  tick     : Nat
  /-- The model's own: an unwritten F register has been read, the spec's fault of the run (R23). -/
  runFault : Bool
  deriving DecidableEq, Repr

/-- The machine right after reset (R37; 70_reset_and_hazards.md R230). The F registers, which the spec leaves
unspecified, hold 0 and are marked unwritten: DESIGN CHOICE, unsafe, log entry 1; the hidden ones likewise, log
entry 2. -/
def State.reset : State :=
  { f := Vector.replicate 16 0
    written := Vector.replicate 16 0
    busy := false
    done := false
    err := false
    errcode := 0
    errinfo := 0
    ie := false
    lastcmd := 0
    pend := none
    hidden := Hidden.zero
    inbox := []
    rdata := 0
    tick := 0
    runFault := false }

end Sys2Proof.Machine
end

