-- ==== Sys2Proof/Machine/Flags.lean ====
section
/-! DEFINITION. The flags and the words that show them: STATUS and CTRL (10_state.md R24, R27), IRQ (60_exceptions.md R212),
and BUSY and DONE at acceptance and completion (R25, R26). There are no arithmetic flags (R35). -/

namespace Sys2Proof.Machine

/-- The STATUS word: BUSY, DONE, ERR in bits 0 to 2, ERRCODE in bits 7 to 4, every other bit 0 (R24). -/
def State.statusWord (s : State) : Word :=
  0#24 ++ s.errcode ++ 0#1 ++ BitVec.ofBool s.err ++ BitVec.ofBool s.done ++ BitVec.ofBool s.busy

/-- The CTRL word: IE in bit 0, every other bit 0 (R27). -/
def State.ctrlWord (s : State) : Word := 0#31 ++ BitVec.ofBool s.ie

/-- The interrupt output, a level (10_state.md R36; 60_exceptions.md R212). -/
def State.irq (s : State) : Bool := s.ie && (s.done || s.err)

/-- A write to CTRL: bit 0 sets IE, the rest is ignored (R27). -/
def State.writeCtrl (s : State) (v : Word) : State := { s with ie := v[0] }

/-- A write to STATUS (R24), which is also the return from an error (60_exceptions.md R210): bit 1 clears DONE, bit 2
clears ERR, ERRCODE and ERRINFO, every other bit is ignored. -/
def State.writeStatus (s : State) (v : Word) : State :=
  { s with
    done    := if v[1] then false else s.done
    err     := if v[2] then false else s.err
    errcode := if v[2] then 0 else s.errcode
    errinfo := if v[2] then 0 else s.errinfo }

/-- Acceptance of the command `i` given by the word `w` (30_encoding.md R76). -/
def State.accept (s : State) (w : Word) (i : Instr) : State :=
  { s with lastcmd := w, pend := some i, busy := true, done := false }

/-- What a completion does beside the command's own writes (30_encoding.md R77). -/
def State.complete (s : State) : State := { s with pend := none, busy := false, done := true }

end Sys2Proof.Machine
end

