-- ==== Sys2Proof/Machine/Bits.lean ====
section
/-! DEFINITION. Bytes and words of a field value, little-endian (00_scope.md R11, 20_memory.md R52, R55). -/

namespace Sys2Proof.Machine

/-- `x.byte[k]` (R11). -/
def byteOf (x : FieldVal) (k : Nat) : BitVec 8 := x.extractLsb' (8 * k) 8

/-- Word `j` of a field value, bits 32j+31 down to 32j (R52). -/
def wordOf (x : FieldVal) (j : Nat) : Word := x.extractLsb' (32 * j) 32

/-- `x` with the bits from `lo` up replaced by those of `v`. -/
def putBits {w : Nat} (x : FieldVal) (lo : Nat) (v : BitVec w) : FieldVal :=
  (x &&& ~~~((BitVec.allOnes w).setWidth 448 <<< lo)) ||| (v.setWidth 448 <<< lo)

/-- `x.byte[k] <- v` (R11). -/
def setByte (x : FieldVal) (k : Nat) (v : BitVec 8) : FieldVal := putBits x (8 * k) v

/-- Replaces word `j`, that is bytes 4j to 4j+3, least significant first (R52). -/
def setWord (x : FieldVal) (j : Nat) (v : Word) : FieldVal := putBits x (32 * j) v

/-- The field value of a list of bytes, byte 0 first (R11). -/
def ofBytes (bs : List (BitVec 8)) : FieldVal :=
  enc (bs.foldr (fun b acc => b.toNat + 256 * acc) 0)

end Sys2Proof.Machine
end

