-- ==== Sys2Proof/Machine/FieldUnit.lean ====
section
/-! DEFINITION. The field unit's value functions (40_field_arith.md R100 to R118): NORM, CSWAP, ADD, SUB, MULC, MUL, SQR and
INV, over the parameter P_REP, and the fold that is P_REP's default instance. -/

namespace Sys2Proof.Machine

/-- The field prime p = 2^448 - 2^224 - 1 (00_scope.md R1, R9). -/
def p : Nat := 2 ^ 448 - 2 ^ 224 - 1

/-- The multiply-by-constant value A24 (R9, R115). -/
def a24 : Nat := 39081

/-- `canon(v) = v mod p` (R12). -/
def canon (v : Nat) : Nat := v % p

/-- The value is in the canonical range (R12). -/
def isNormalized (x : FieldVal) : Bool := decide (val x < p)

/-! ### Normalize and conditional swap -/

/-- `NORM(x) = enc(canon(val(x)))` (R106, R110). -/
def norm (x : FieldVal) : FieldVal := enc (canon (val x))

/-- Pass 1 of R110's byte-level method: the carry out of byte 55 of a + 1 + 2^224. -/
def normCarry (a : FieldVal) : Nat :=
  (List.range 56).foldl
    (fun c k => (c + (byteOf a k).toNat + (if k = 0 ∨ k = 28 then 1 else 0)) >>> 8) 0

/-- One byte of pass 2 of R110's method: the running carry and the bytes so far, last byte first. -/
def normByte (a : FieldVal) (c : Nat) (st : Nat × List (BitVec 8)) (k : Nat) : Nat × List (BitVec 8) :=
  let o := st.1 + (byteOf a k).toNat + (if k = 0 ∨ k = 28 then c else 0)
  (o >>> 8, BitVec.ofNat 8 (o % 256) :: st.2)

/-- R110's two-pass byte-level method. The model computes `norm`; a statement says the two are equal. -/
def normBytes (a : FieldVal) : FieldVal :=
  ofBytes ((List.range 56).foldl (normByte a (normCarry a)) (0, [])).2.reverse

/-- CSWAP by a mask exchange, with no branch on the bit (R112). -/
def cswap (b : Bool) (x y : FieldVal) : FieldVal × FieldVal :=
  let m : FieldVal := 0 - (BitVec.ofBool b).setWidth 448
  let t := m &&& (x ^^^ y)
  (x ^^^ t, y ^^^ t)

/-! ### The unnormalized operations and P_REP -/

/-- The true result of an unnormalized operation, before reduction (R101, R106). -/
def trueResult : RepCall → Int
  | .fadd a b => val a + val b
  | .fsub a b => val a - val b
  | .fmulc a  => a24 * val a
  | .fmul a b => val a * val b

/-- The canonical residue of the true result. -/
def residue (c : RepCall) : Nat := (trueResult c % (p : Int)).toNat

/-- `P_REP(op, operands)` under the instance `P` (R101): the residue, or, where it has a second representative below
2^448 and `P` takes it, the residue plus p. -/
def rep (P : PRep) (c : RepCall) : FieldVal :=
  if residue c + p < 2 ^ 448 ∧ P c = true then enc (residue c + p) else enc (residue c)

/-- Byte k of an 896-bit product (R116). -/
def prodByte (t k : Nat) : Nat := t / 256 ^ k % 256

/-- FMUL's first fold of the exact product `t` (R116). -/
def mulFold (t : Nat) : Nat :=
  ((List.range 28).map fun k =>
    (prodByte t k + prodByte t (k + 56) + prodByte t (k + 84)) * 256 ^ k).sum
  + ((List.range 28).map fun k =>
    (prodByte t (k + 28) + prodByte t (k + 56) + 2 * prodByte t (k + 84)) * 256 ^ (k + 28)).sum

/-- The integer an operation accumulates before its final fold: S of R113 to R115, S_mul of R116. -/
def accumulated : RepCall → Nat
  | .fadd a b => val a + val b
  | .fsub a b => val a + 2 * p - val b
  | .fmulc a  => a24 * val a
  | .fmul a b => mulFold (val a * val b)

/-- One pass of the carry fold: the carry out of byte 55 is added at byte 0 and at byte 28 (R102). -/
def foldPass (s : Nat) : Nat :=
  if 2 ^ 448 ≤ s then s % 2 ^ 448 + s >>> 448 + (s >>> 448) * 2 ^ 224 else s

/-- The carry fold, at most two passes for every integer a command accumulates (R102). -/
def fold (s : Nat) : FieldVal := enc (foldPass (foldPass s))

/-- The default instance of P_REP: the one whose every result is the fold (R102). -/
def foldRep : PRep := fun c => decide (p ≤ val (fold (accumulated c)))

/-- ADD (R113). -/
def add (P : PRep) (x y : FieldVal) : FieldVal := rep P (.fadd x y)

/-- SUB, first operand minus second (R114). -/
def sub (P : PRep) (x y : FieldVal) : FieldVal := rep P (.fsub x y)

/-- MULC, multiply by 39081 (R115). -/
def mulc (P : PRep) (x : FieldVal) : FieldVal := rep P (.fmulc x)

/-- MUL (R116). -/
def mul (P : PRep) (x y : FieldVal) : FieldVal := rep P (.fmul x y)

/-- SQR, always normalized (R117). -/
def sqr (P : PRep) (x : FieldVal) : FieldVal := norm (rep P (.fmul x x))

/-! ### Invert -/

/-- One square-and-multiply-by-a round of the chain (R118). -/
def sqrMul (P : PRep) (a t : FieldVal) : FieldVal := mul P (sqr P t) a

/-- The chain's value before its final normalize (R118). -/
def invChain (P : PRep) (a : FieldVal) : FieldVal :=
  let t := sqrMul P a a
  let t := (sqrMul P a)^[221] t
  let t := sqr P t
  let t := (sqrMul P a)^[222] t
  let t := sqr P (sqr P t)
  mul P t a

/-- INV: the fixed chain, then a normalize (R118). -/
def inv (P : PRep) (a : FieldVal) : FieldVal := norm (invChain P a)

end Sys2Proof.Machine
end

