-- ==== Sys2Proof/Machine/Ladder.lean ====
section
/-! DEFINITION. The scalar-multiplication controller's functions (41_scalarmult.md R150 to R159): scalar bits, clamping, and
the Montgomery ladder over the hidden registers. -/

namespace Sys2Proof.Machine

/-- `bit(k, i)` by shift and mask (R151). -/
def scalarBit (k : FieldVal) (i : Nat) : Bool :=
  ((byteOf k (i >>> 3)) >>> (i % 8)) &&& 1 == 1

/-- `clamp(k)`: bits 0 and 1 of byte 0 cleared, bit 7 of byte 55 set (R152). -/
def clampScalar (k : FieldVal) : FieldVal :=
  setByte (setByte k 0 (byteOf k 0 &&& 0xFC)) 55 (byteOf k 55 ||| 0x80)

/-- Ladder initialization (R154). -/
def ladderInit (u k : FieldVal) (h : Hidden) : Hidden :=
  { h with x1 := u, x2 := enc 1, z2 := enc 0, x3 := u, z3 := enc 1, kc := k, swap := false }

/-- The conditional swap of (X2, Z2) with (X3, Z3) by the swap flag (R155, R157). -/
def ladderSwap (h : Hidden) : Hidden :=
  let xs := cswap h.swap h.x2 h.x3
  let zs := cswap h.swap h.z2 h.z3
  { h with x2 := xs.1, x3 := xs.2, z2 := zs.1, z3 := zs.2 }

/-- STEP, line by line in R156's order. -/
def ladderStep (P : PRep) (h : Hidden) : Hidden :=
  let h := { h with a := add P h.x2 h.z2 }
  let h := { h with b := add P h.x3 h.z3 }
  let h := { h with c := sub P h.x2 h.z2 }
  let h := { h with d := sub P h.x3 h.z3 }
  let h := { h with aa := sqr P h.a }
  let h := { h with cc := sqr P h.c }
  let h := { h with da := mul P h.d h.a }
  let h := { h with cb := mul P h.b h.c }
  let h := { h with e := sub P h.aa h.cc }
  let h := { h with x2 := mul P h.aa h.cc }
  let h := { h with t := mulc P h.e }
  let h := { h with t := add P h.aa h.t }
  let h := { h with z2 := mul P h.e h.t }
  let h := { h with t := add P h.da h.cb }
  let h := { h with x3 := sqr P h.t }
  let h := { h with t := sub P h.da h.cb }
  let h := { h with t := sqr P h.t }
  { h with z3 := mul P h.x1 h.t }

/-- Iteration `i` (R155): the bit, the swap, the flag for the next iteration, then STEP. -/
def ladderIterate (P : PRep) (i : Nat) (h : Hidden) : Hidden :=
  let b := scalarBit h.kc i
  let h := ladderSwap { h with i := Fin.ofNat 448 i, swap := h.swap ^^ b }
  ladderStep P { h with swap := b }

/-- The iterations from `n - 1` down to 0, once each (R155). -/
def ladderLoop (P : PRep) : Nat → Hidden → Hidden
  | 0, h     => h
  | n + 1, h => ladderLoop P n (ladderIterate P n h)

/-- Ladder termination (R157): the last swap, then X2 times the inverse of Z2, normalized. -/
def ladderTerminate (P : PRep) (h : Hidden) : FieldVal :=
  let h := ladderSwap h
  let h := { h with t := inv P h.z2 }
  let h := { h with t := mul P h.x2 h.t }
  norm h.t

/-- The ladder on point `u` and scalar `k`, from hidden registers `h` (R158): 448 iterations. -/
def ladder (P : PRep) (h : Hidden) (u k : FieldVal) : FieldVal :=
  ladderTerminate P (ladderLoop P 448 (ladderInit u k h))

/-- The X448 function: the ladder on a clamped private copy of the scalar (R159). -/
def x448 (P : PRep) (h : Hidden) (u k : FieldVal) : FieldVal := ladder P h u (clampScalar k)

end Sys2Proof.Machine
end

