-- ==== Sys2Proof/Machine/Operands.lean ====
section
/-! DEFINITION. The field registers as operands: reading and writing a whole register (10_state.md R20 to R23) and a 32-bit
word of one (20_memory.md R52), and the free values the hidden registers take. -/

namespace Sys2Proof.Machine

/-- `F[n]`. -/
def State.readF (s : State) (n : FReg) : FieldVal := s.f[n.val]

/-- All fourteen words of F[n] have been written since reset (20_memory.md R52). -/
def State.isWritten (s : State) (n : FReg) : Bool := s.written[n.val] == BitVec.allOnes 14

/-- Marks the run faulted if F[n] counts as unwritten (10_state.md R23); a read of F[n] does this and no more.
DESIGN CHOICE, log entry 4. -/
def State.noteRead (s : State) (n : FReg) : State :=
  { s with runFault := s.runFault || !s.isWritten n }

/-- The registers a command names as sources (30_encoding.md R73); FCSWAP's two are sources and destinations
(40_field_arith.md R112). -/
def sourcesOf : Instr → List FReg
  | .nop                => []
  | .fnorm _ rs1        => [rs1]
  | .fcopy _ rs1        => [rs1]
  | .fcswap rs1 rs2 _   => [rs1, rs2]
  | .fadd _ rs1 rs2     => [rs1, rs2]
  | .fsub _ rs1 rs2     => [rs1, rs2]
  | .fmulc _ rs1        => [rs1]
  | .fmul _ rs1 rs2     => [rs1, rs2]
  | .fsqr _ rs1         => [rs1]
  | .finv _ rs1         => [rs1]
  | .clamp _ rs1        => [rs1]
  | .ladder _ rs1 rs2   => [rs1, rs2]
  | .x448 _ rs1 rs2     => [rs1, rs2]

/-- Marks the run faulted if a register of the list counts as unwritten: the read of a command's sources, at its
acceptance (70_reset_and_hazards.md R235; 20_memory.md R64). -/
def State.noteReads (s : State) (ns : List FReg) : State :=
  { s with runFault := s.runFault || ns.any fun n => !s.isWritten n }

/-- `F[n] <- v`; the register counts as written from here on (R23). -/
def State.writeF (s : State) (n : FReg) (v : FieldVal) : State :=
  { s with f := s.f.set n.val v, written := s.written.set n.val (BitVec.allOnes 14) }

/-- Word `j` of F[n] (20_memory.md R52). -/
def State.fieldWord (s : State) (n : FReg) (j : Fin 14) : Word := wordOf (s.readF n) j.val

/-- The host's store of word `j` of F[n]: four bytes change, and the word counts as written (R52). -/
def State.writeFieldWord (s : State) (n : FReg) (j : Fin 14) (w : Word) : State :=
  { s with
    f := s.f.set n.val (setWord (s.readF n) j.val w)
    written := s.written.set n.val (s.written[n.val] ||| (1#14 <<< j.val)) }

/-- A multiply or square has used ACC: it holds a free value (10_state.md R33). Log entry 3. -/
def State.freeAcc (s : State) : State :=
  { s with hidden := { s.hidden with acc := (Config.freeHidden s.tick).acc }, tick := s.tick + 1 }

/-- An inversion has used ACC and its temporary: they hold free values (R33). Log entry 3. -/
def State.freeInv (s : State) : State :=
  { s with
    hidden := { s.hidden with
      acc := (Config.freeHidden s.tick).acc
      finvT := (Config.freeHidden s.tick).finvT }
    tick := s.tick + 1 }

/-- A ladder has used every hidden register: they hold free values (R32, R33). Log entry 3. -/
def State.freeLadder (s : State) : State :=
  { s with hidden := Config.freeHidden s.tick, tick := s.tick + 1 }

end Sys2Proof.Machine
end

