-- ==== Sys2Proof/Machine/Ops.lean ====
section
/-! DEFINITION. The shared operations: raising an error (60_exceptions.md R207), presenting a command (30_encoding.md R76),
completing one (R77), and reset (70_reset_and_hazards.md R230). The return from an error is State.writeStatus. -/

namespace Sys2Proof.Machine

/-- The error causes (60_exceptions.md R201). Codes 6 to 15 are never raised. -/
inductive ErrCause where
  | illegalOpcode
  | reservedField
  | cmdWhileBusy
  | writeWhileBusy
  | badAccess
  deriving DecidableEq, Repr

/-- The code an error records in ERRCODE (R201). -/
def ErrCause.code : ErrCause → BitVec 4
  | .illegalOpcode  => 1
  | .reservedField  => 2
  | .cmdWhileBusy   => 3
  | .writeWhileBusy => 4
  | .badAccess      => 5

/-- `raise Error(code, info)`: the one error entry of the machine. The first error since ERR was cleared is recorded,
a later one is dropped, and nothing else changes (R207, R211). -/
def State.raiseError (s : State) (c : ErrCause) (info : Word) : State :=
  if s.err then s else { s with err := true, errcode := c.code, errinfo := info }

/-- The size code of ERRINFO bits 18:17 (10_state.md R29). -/
def AccessSize.code : AccessSize → BitVec 2
  | .byte  => 0
  | .half  => 1
  | .word  => 2
  | .other => 3

/-- The write flag of ERRINFO bit 16 (R29). -/
def AccessKind.isWrite : AccessKind → Bool
  | .read    => false
  | .write _ => true

/-- What ERRINFO records of an access for codes 4 and 5: {13'b0, size, write, 4'b0, offset} (R29, R207). -/
def Access.info (a : Access) : Word :=
  0#13 ++ a.size.code ++ BitVec.ofBool a.kind.isWrite ++ 0#4 ++ BitVec.ofNat 12 a.off

/-- A 32-bit write of `w` to CMD: rejected while busy, else decoded and rejected or accepted (30_encoding.md R76; order
of the checks: 60_exceptions.md R208). An accepted command reads its sources here, so an unwritten one marks the run
even if reset then abandons the command (70_reset_and_hazards.md R235; 10_state.md R23). -/
def State.presentCommand (s : State) (w : Word) : State :=
  if s.busy then s.raiseError .cmdWhileBusy w
  else match decodeWord w with
    | .ok i                 => (s.noteReads (sourcesOf i)).accept w i
    | .error .reservedField => s.raiseError .reservedField w
    | .error _              => s.raiseError .illegalOpcode w

/-- The completion of a command that reads F[rs1] and writes F[rd] (R77; sources before destinations, 40_field_arith.md
R103). An unwritten source marks the run here as it did at acceptance: DESIGN CHOICE, safe, log entry 17. -/
def State.command1 (s : State) (rd rs1 : FReg) (g : FieldVal → FieldVal) : State :=
  ((s.noteRead rs1).writeF rd (g (s.readF rs1))).complete

/-- The completion of a command that reads F[rs1] and F[rs2] and writes F[rd] (R77, R103). An unwritten source marks the
run here as it did at acceptance: DESIGN CHOICE, safe, log entry 17. -/
def State.command2 (s : State) (rd rs1 rs2 : FReg) (g : FieldVal → FieldVal → FieldVal) : State :=
  (((s.noteRead rs1).noteRead rs2).writeF rd (g (s.readF rs1) (s.readF rs2))).complete

/-- Reset (70_reset_and_hazards.md R230, R231): every register takes its reset value and a command in progress is
abandoned. The operations still to come, the last read's word, the free-value counter and the mark of a faulted run
are no registers of the machine and stay. Log entries 1, 2 and 4. -/
def State.applyReset (s : State) : State :=
  { State.reset with inbox := s.inbox, rdata := s.rdata, tick := s.tick, runFault := s.runFault }

end Sys2Proof.Machine
end

