-- ==== Sys2Proof/Machine/Controller.lean ====
section
/-! DEFINITION. The meanings of the controller's commands (41_scalarmult.md R153 to R160): NOP, CLAMP, LADDER and X448. -/

namespace Sys2Proof.Machine

/-- NOP: completes and changes no register (R160). -/
def execNop (s : State) : Host.Outcome State Fault Refusal :=
  .next s.complete

/-- CLAMP: F[rd] <- clamp(F[rs1]) (R153). -/
def execClamp (rd rs1 : FReg) (s : State) : Host.Outcome State Fault Refusal :=
  .next (s.command1 rd rs1 clampScalar)

/-- LADDER: the ladder on point F[rs1] and scalar F[rs2] as given; the hidden registers have been used (R158). -/
def execLadder (rd rs1 rs2 : FReg) (s : State) : Host.Outcome State Fault Refusal :=
  .next (s.command2 rd rs1 rs2 (ladder Config.pRep s.hidden)).freeLadder

/-- X448: the ladder on point F[rs1] and a clamped private copy of scalar F[rs2] (R159). -/
def execX448 (rd rs1 rs2 : FReg) (s : State) : Host.Outcome State Fault Refusal :=
  .next (s.command2 rd rs1 rs2 (x448 Config.pRep s.hidden)).freeLadder

end Sys2Proof.Machine
end

