-- ==== Sys2Proof/Machine/Field.lean ====
section
/-! DEFINITION. The meanings of the field unit's commands (40_field_arith.md R110 to R118): what the completion of each does
(30_encoding.md R77). No command raises an error (60_exceptions.md R200). -/

namespace Sys2Proof.Machine

/-- FNORM: F[rd] <- NORM(F[rs1]) (R110). -/
def execFnorm (rd rs1 : FReg) (s : State) : Host.Outcome State Fault Refusal :=
  .next (s.command1 rd rs1 norm)

/-- FCOPY: F[rd] <- F[rs1], no arithmetic (R111). -/
def execFcopy (rd rs1 : FReg) (s : State) : Host.Outcome State Fault Refusal :=
  .next (s.command1 rd rs1 fun x => x)

/-- FCSWAP: the mask exchange; both registers are written for either value of `b` (R112). An unwritten one marks the run
here as it did at acceptance: DESIGN CHOICE, safe, log entry 17. -/
def execFcswap (rs1 rs2 : FReg) (b : Bool) (s : State) : Host.Outcome State Fault Refusal :=
  let xy := cswap b (s.readF rs1) (s.readF rs2)
  .next ((((s.noteRead rs1).noteRead rs2).writeF rs1 xy.1).writeF rs2 xy.2).complete

/-- FADD: F[rd] <- P_REP(FADD, F[rs1], F[rs2]) (R113). -/
def execFadd (rd rs1 rs2 : FReg) (s : State) : Host.Outcome State Fault Refusal :=
  .next (s.command2 rd rs1 rs2 (add Config.pRep))

/-- FSUB: F[rd] <- P_REP(FSUB, F[rs1], F[rs2]), first minus second (R114). -/
def execFsub (rd rs1 rs2 : FReg) (s : State) : Host.Outcome State Fault Refusal :=
  .next (s.command2 rd rs1 rs2 (sub Config.pRep))

/-- FMULC: F[rd] <- P_REP(FMULC, F[rs1]) (R115). -/
def execFmulc (rd rs1 : FReg) (s : State) : Host.Outcome State Fault Refusal :=
  .next (s.command1 rd rs1 (mulc Config.pRep))

/-- FMUL: F[rd] <- P_REP(FMUL, F[rs1], F[rs2]); ACC has been used (R116). -/
def execFmul (rd rs1 rs2 : FReg) (s : State) : Host.Outcome State Fault Refusal :=
  .next (s.command2 rd rs1 rs2 (mul Config.pRep)).freeAcc

/-- FSQR: F[rd] <- NORM(P_REP(FMUL, F[rs1], F[rs1])); ACC has been used (R117). -/
def execFsqr (rd rs1 : FReg) (s : State) : Host.Outcome State Fault Refusal :=
  .next (s.command1 rd rs1 (sqr Config.pRep)).freeAcc

/-- FINV: F[rd] <- INV(F[rs1]), the fixed chain; ACC and the temporary have been used (R118). -/
def execFinv (rd rs1 : FReg) (s : State) : Host.Outcome State Fault Refusal :=
  .next (s.command1 rd rs1 (inv Config.pRep)).freeInv

end Sys2Proof.Machine
end

