-- ==== Sys2Proof/Machine/Dispatch.lean ====
section
/-! DEFINITION. One arm per command: what its completion does (30_encoding.md R77). -/

namespace Sys2Proof.Machine

def exec (i : Instr) (s : State) : Host.Outcome State Fault Refusal :=
  match i with
  | .nop => Sys2Proof.Machine.execNop s
  | .fnorm rd rs1 => Sys2Proof.Machine.execFnorm rd rs1 s
  | .fcopy rd rs1 => Sys2Proof.Machine.execFcopy rd rs1 s
  | .fcswap rs1 rs2 b => Sys2Proof.Machine.execFcswap rs1 rs2 b s
  | .fadd rd rs1 rs2 => Sys2Proof.Machine.execFadd rd rs1 rs2 s
  | .fsub rd rs1 rs2 => Sys2Proof.Machine.execFsub rd rs1 rs2 s
  | .fmulc rd rs1 => Sys2Proof.Machine.execFmulc rd rs1 s
  | .fmul rd rs1 rs2 => Sys2Proof.Machine.execFmul rd rs1 rs2 s
  | .fsqr rd rs1 => Sys2Proof.Machine.execFsqr rd rs1 s
  | .finv rd rs1 => Sys2Proof.Machine.execFinv rd rs1 s
  | .clamp rd rs1 => Sys2Proof.Machine.execClamp rd rs1 s
  | .ladder rd rs1 rs2 => Sys2Proof.Machine.execLadder rd rs1 rs2 s
  | .x448 rd rs1 rs2 => Sys2Proof.Machine.execX448 rd rs1 rs2 s

end Sys2Proof.Machine
end

