-- ==== Sys2Proof/Machine/Window.lean ====
section
/-! DEFINITION. The register window (20_memory.md R50 to R60): the address map, reads, writes, the checks of an access and
their order (60_exceptions.md R208), and WAIT's polling (30_encoding.md R81). -/

namespace Sys2Proof.Machine

/-- The ID register's constant (10_state.md R30). -/
def idValue : Word := 0x38343458

/-- The size of the window in bytes (20_memory.md R50). -/
def windowSize : Nat := 4096

/-- What stands at a word of the window (R51). -/
inductive WindowReg where
  | id
  | status
  | ctrl
  | cmd
  | errinfo
  /-- Word `j` of F[n] (R52). -/
  | field (n : FReg) (j : Fin 14)
  /-- Words 14 and 15 of a 64-byte slot (R53). -/
  | padding
  /-- 0x014 .. 0x0FF and 0x500 .. 0xFFF (R54). -/
  | reserved
  deriving DecidableEq, Repr

/-- The address map (R51), for the offset of an aligned word. -/
def windowReg (off : Nat) : WindowReg :=
  if off = 0x000 then .id
  else if off = 0x004 then .status
  else if off = 0x008 then .ctrl
  else if off = 0x00C then .cmd
  else if off = 0x010 then .errinfo
  else if off < 0x100 then .reserved
  else if off < 0x500 then
    let n := (off - 0x100) / 64
    let j := (off - 0x100) % 64 / 4
    if h : j < 14 then .field (Fin.ofNat 16 n) ⟨j, h⟩ else .padding
  else .reserved

/-- The offset of word `j` of F[n] (R52). -/
def fieldOffset (n : FReg) (j : Fin 14) : Nat := 0x100 + 64 * n.val + 4 * j.val

/-- The effective address of word `j` of F[n], BASE + 0x100 + 64n + 4j (R60). -/
def fieldAddress (n : FReg) (j : Fin 14) : Nat := Config.base + fieldOffset n j

/-- The access a platform address stands for, as the window sees it; none outside the window (R50). -/
def Access.atAddress (addr : Nat) (size : AccessSize) (kind : AccessKind) : Option Access :=
  if Config.base ≤ addr ∧ addr < Config.base + windowSize then some ⟨addr - Config.base, size, kind⟩ else none

/-- The word a legal read of a window register returns (R51 to R54, R59; 10_state.md R24 to R30). -/
def State.windowWord (s : State) : WindowReg → Word
  | .id        => idValue
  | .status    => s.statusWord
  | .ctrl      => s.ctrlWord
  | .cmd       => s.lastcmd
  | .errinfo   => s.errinfo
  | .field n j => if s.busy then 0 else s.fieldWord n j
  | .padding   => 0
  | .reserved  => 0

/-- A read of F[n] while idle is a read of the register (10_state.md R23); no other read is. -/
def State.noteWindowRead (s : State) : WindowReg → State
  | .id        => s
  | .status    => s
  | .ctrl      => s
  | .cmd       => s
  | .errinfo   => s
  | .field n _ => if s.busy then s else s.noteRead n
  | .padding   => s
  | .reserved  => s

/-- The word a read returned. -/
def State.respond (s : State) (w : Word) : State := { s with rdata := w }

/-- A legal 32-bit read: its word, and no side effect (20_memory.md R58). -/
def State.windowRead (s : State) (r : WindowReg) : State :=
  (s.noteWindowRead r).respond (s.windowWord r)

/-- A legal 32-bit write of `v`; `info` is what WRITE_WHILE_BUSY would record (R52 to R54, R58, R59). -/
def State.windowWrite (s : State) (r : WindowReg) (v info : Word) : State :=
  match r with
  | .id        => s
  | .status    => s.writeStatus v
  | .ctrl      => s.writeCtrl v
  | .cmd       => s.presentCommand v
  | .errinfo   => s
  | .field n j => if s.busy then s.raiseError .writeWhileBusy info else s.writeFieldWord n j v
  | .padding   => s
  | .reserved  => s

/-- The access is 32 bits wide and aligned (R56). -/
def Access.legal (a : Access) : Bool := a.size == .word && a.off % 4 == 0

/-- An access that is not legal: BAD_ACCESS, and a read returns 0 (R56; 60_exceptions.md R206). -/
def State.badAccess (s : State) (a : Access) : State :=
  let s := s.raiseError .badAccess a.info
  match a.kind with
  | .read    => s.respond 0
  | .write _ => s

/-- An access inside the window: width and alignment are checked first (R56, R208). -/
def State.windowAccess (s : State) (a : Access) : State :=
  if a.legal then
    match a.kind with
    | .read    => s.windowRead (windowReg a.off)
    | .write v => s.windowWrite (windowReg a.off) v a.info
  else s.badAccess a

/-- One host access (R56 to R59); outside the window it stops the run (R50). -/
def State.hostAccess (s : State) (a : Access) : Host.Outcome State Fault Refusal :=
  if a.off < windowSize then .next (s.windowAccess a) else .fault .outsideWindow

/-- One read of STATUS by WAIT (30_encoding.md R81), with `rest` still to come after it. -/
def State.poll (s : State) (rest : List HostOp) : State :=
  ({ s with inbox := rest }).windowRead .status

end Sys2Proof.Machine
end

