-- ==== Sys2Proof/Machine/Step.lean ====
section
/-! DEFINITION. One event of the machine (20_memory.md R61): a host access, a completion, a poll of WAIT, or reset. -/

namespace Sys2Proof.Machine

/-- The engine's turn: the pending command completes (30_encoding.md R77); an idle engine waits
(70_reset_and_hazards.md R232). -/
def engineTurn (s : State) : Host.Outcome State Fault Refusal :=
  match s.busy, s.pend with
  | true, some i => exec i s
  | _, _         => .next s

/-- The next event. With nothing to come from outside it is the engine's turn, so an accepted command completes
(R77). WAIT reads STATUS while its polls last, then lets the engine complete, and ends with a read of BUSY = 0
(30_encoding.md R81). -/
def step (s : State) : Host.Outcome State Fault Refusal :=
  match s.inbox with
  | []                     => engineTurn s
  | .engine :: rest        => engineTurn { s with inbox := rest }
  | .access a :: rest      => ({ s with inbox := rest }).hostAccess a
  | .wait polls :: rest    =>
    if s.busy then
      match polls with
      | 0     => engineTurn s
      | n + 1 => .next (s.poll (.wait n :: rest))
    else .next (s.poll rest)
  | .reset :: rest         => .next ({ s with inbox := rest }).applyReset

/-- `s` with the command word `w` (its bits above `nbits` zero) presented to an idle engine and the engine's turn
next: the engine fetches nothing (10_state.md R34), and the latch that a CMD write fills is where its next command
stands (30_encoding.md R76). -/
def State.withFetchWord (s : State) (nbits w : Nat) : State :=
  ({ s with pend := none, busy := false, inbox := .engine :: s.inbox }).presentCommand (BitVec.ofNat 32 (w % 2 ^ nbits))

end Sys2Proof.Machine
end

