-- ==== Sys2Proof/Machine/HostOps.lean ====
section
/-! DEFINITION. The host pseudo-operations (30_encoding.md R81) as lists of host operations, and the writing of a 56-byte
value in hexadecimal (00_scope.md R11). A host program is a list of these, put in State.inbox. -/

namespace Sys2Proof.Machine

/-- A legal 32-bit write. -/
def hostWrite (off : Nat) (v : Word) : HostOp := .access ⟨off, .word, .write v⟩

/-- A legal 32-bit read. -/
def hostRead (off : Nat) : HostOp := .access ⟨off, .word, .read⟩

/-- LDF: the fourteen word writes of F[n], word 0 first (R81). -/
def ldf (n : FReg) (v : FieldVal) : List HostOp :=
  (List.finRange 14).map fun j => hostWrite (fieldOffset n j) (wordOf v j.val)

/-- STF: the fourteen word reads of F[n], word 0 first (R81). -/
def stf (n : FReg) : List HostOp :=
  (List.finRange 14).map fun j => hostRead (fieldOffset n j)

/-- ISSUE: a write of the command's encoding to CMD (R81). -/
def issue (i : Instr) : List HostOp := [hostWrite 0x00C (encode i)]

/-- WAIT, of whose reads `polls` see the engine busy before it completes (R81). -/
def waitIdle (polls : Nat) : List HostOp := [.wait polls]

/-- CLRST: clears DONE and ERR (R81). -/
def clrst : List HostOp := [hostWrite 0x004 0x00000006]

/-- A command line in a program: ISSUE, then WAIT (R81). -/
def commandLine (i : Instr) (polls : Nat) : List HostOp := issue i ++ waitIdle polls

/-- The value of a hexadecimal digit. -/
def hexDigit (c : Char) : Option Nat :=
  let k := c.toNat
  if 48 ≤ k ∧ k ≤ 57 then some (k - 48)
  else if 97 ≤ k ∧ k ≤ 102 then some (k - 87)
  else if 65 ≤ k ∧ k ≤ 70 then some (k - 55)
  else none

/-- The bytes of a string of hexadecimal digits, two a byte. -/
def hexBytes : List Char → Option (List (BitVec 8))
  | []          => some []
  | [_]         => none
  | h :: l :: r =>
    match hexDigit h, hexDigit l, hexBytes r with
    | some x, some y, some bs => some (BitVec.ofNat 8 (16 * x + y) :: bs)
    | _, _, _                 => none

/-- The field value of 112 hexadecimal digits, byte 0 first (R11); any other number of digits is no value. -/
def hexField (digits : List Char) : Option FieldVal :=
  match hexBytes digits with
  | some bs => if bs.length = 56 then some (ofBytes bs) else none
  | none    => none

end Sys2Proof.Machine
end

