-- ==== Sys2Proof/Safety.lean ====
section
/-! DEFINITION. What counts as a safe run, in the terms claims use: the end of a run (70_reset_and_hazards.md R242), a run with
no fault of the spec's kind (10_state.md R23), and the invariant of the control and status registers. -/

namespace Sys2Proof.Machine

/-- The host has issued its last operation and the engine is idle (R242). -/
def State.ended (s : State) : Prop := s.inbox = [] ∧ s.busy = false

/-- No unwritten F register has been read: the run is not faulted in the spec's sense (10_state.md R23). -/
def State.noRunFault (s : State) : Prop := s.runFault = false

/-- No error is recorded (R242). -/
def State.noError (s : State) : Prop := s.err = false

/-- The run is over, no error is recorded, and no unwritten register was read: what a claim about a run takes for
granted (R242, R23). -/
def State.cleanEnd (s : State) : Prop := s.ended ∧ s.noError ∧ s.noRunFault

/-- What ERRINFO holds beside a recorded ERRCODE (10_state.md R29; 60_exceptions.md R201 to R206). -/
def errRecordOk (code : BitVec 4) (info : Word) : Prop :=
  (code = 1 ∧ decodeWord info = .error .illegalOpcode) ∨
  (code = 2 ∧ decodeWord info = .error .reservedField) ∨
  code = 3 ∨
  (code = 4 ∧ ∃ n j v, info = (⟨fieldOffset n j, .word, .write v⟩ : Access).info) ∨
  (code = 5 ∧ ∃ a : Access, a.off < windowSize ∧ a.legal = false ∧ info = a.info)

/-- The invariant of the control and status registers. It says nothing of the F registers. -/
structure State.Inv (s : State) : Prop where
  /-- PEND is valid exactly while BUSY = 1 (R31). -/
  busy_pend : s.busy = s.pend.isSome
  /-- LASTCMD is the word of the command in progress (R76). -/
  pend_lastcmd : ∀ i, s.pend = some i → decodeWord s.lastcmd = .ok i
  /-- LASTCMD is a legal command word: a rejected word is never stored (R28). -/
  lastcmd_legal : ∃ i, decodeWord s.lastcmd = .ok i
  /-- DONE is 0 while a command is in progress (R26). -/
  busy_done : s.busy = true → s.done = false
  /-- ERRCODE and ERRINFO are 0 while ERR = 0 (R24, R29). -/
  no_err : s.err = false → s.errcode = 0 ∧ s.errinfo = 0
  /-- While ERR = 1 the record is that of one of the five errors (R201). -/
  err_record : s.err = true → errRecordOk s.errcode s.errinfo

end Sys2Proof.Machine
end

