-- ==== Sys2Proof/Certificates/Slice0/Obligations.lean ====
section
/-! DEFINITION. The statements for the provers, and the terms they are stated in: what a completion leaves, the command
word read as numbers, the ladder over residues, and when two states look alike. -/

set_option exponentiation.threshold 1000

namespace Sys2Proof.Claims

open Sys2Proof.Machine

/-! ### What a step leaves -/

/-- What every completion does to the control and status registers (30_encoding.md R77; 40_field_arith.md R104). -/
structure Completed (s t : State) : Prop where
  pend    : t.pend = none
  busy    : t.busy = false
  done    : t.done = true
  err     : t.err = s.err
  errcode : t.errcode = s.errcode
  errinfo : t.errinfo = s.errinfo
  ie      : t.ie = s.ie
  lastcmd : t.lastcmd = s.lastcmd

/-- A completion that changes no field register. -/
structure WritesNone (s t : State) : Prop extends Completed s t where
  regs    : t.f = s.f
  written : t.written = s.written

/-- A completion that writes `r` to F[rd] and to no other field register. -/
structure WritesReg (s t : State) (rd : FReg) (r : FieldVal) : Prop extends Completed s t where
  result  : t.readF rd = r
  marked  : t.isWritten rd = true
  others  : ∀ n, n ≠ rd → t.readF n = s.readF n
  marks   : ∀ n : FReg, n ≠ rd → t.written[n.val] = s.written[n.val]

/-- The completion leaves the hidden registers and the free-value counter. -/
def KeepsHidden (s t : State) : Prop := t.hidden = s.hidden ∧ t.tick = s.tick

/-- What a completion does to the model's own fields `inbox`, `rdata` and `runFault`, for the sources `srcs`. -/
structure OwnFields (s t : State) (srcs : List FReg) : Prop where
  inbox    : t.inbox = s.inbox
  rdata    : t.rdata = s.rdata
  runFault : t.runFault = true ↔ s.runFault = true ∨ ∃ n ∈ srcs, s.isWritten n = false

/-- `s` with the error recorded unless one is recorded already (60_exceptions.md R207). -/
def errorRecorded (s : State) (code : BitVec 4) (info : Word) : State :=
  if s.err = true then s else { s with err := true, errcode := code, errinfo := info }

/-- The control and status registers, the F registers' marks and IRQ stand as R37 says after reset; no word of an F
register has been written since (20_memory.md R52). -/
structure ResetValues (t : State) : Prop where
  unwritten : ∀ n : FReg, t.written[n.val] = 0
  busy      : t.busy = false
  done      : t.done = false
  err       : t.err = false
  errcode   : t.errcode = 0
  ie        : t.ie = false
  lastcmd   : t.lastcmd = 0
  errinfo   : t.errinfo = 0
  ident     : t.windowWord .id = 0x38343458
  pend      : t.pend = none
  irq       : t.irq = false

/-! ### The command word read as numbers -/

/-- The opcode of a word. -/
def opcOf (w : Word) : Nat := w.toNat % 256

/-- The opcode is in the map (30_encoding.md R72, R74). -/
abbrev mappedOpc (o : Nat) : Prop := o ≤ 0x09 ∨ (0x10 ≤ o ∧ o ≤ 0x12)

/-- The mask column of R72, by opcode. -/
def maskOf (o : Nat) : Word :=
  if o = 0x00 then 0xFFFFFFFF
  else if o = 0x03 then 0xFFE00FFF
  else if o = 0x04 ∨ o = 0x05 ∨ o = 0x07 ∨ o = 0x11 ∨ o = 0x12 then 0xFFF000FF
  else 0xFFFF00FF

/-- The command a legal word stands for, its fields cut out by division (R70, R72). -/
def commandOf (w : Word) : Instr :=
  let rd : FReg := Fin.ofNat 16 (w.toNat / 2 ^ 8)
  let rs1 : FReg := Fin.ofNat 16 (w.toNat / 2 ^ 12)
  let rs2 : FReg := Fin.ofNat 16 (w.toNat / 2 ^ 16)
  let o := opcOf w
  if o = 0x00 then .nop
  else if o = 0x01 then .fnorm rd rs1
  else if o = 0x02 then .fcopy rd rs1
  else if o = 0x03 then .fcswap rs1 rs2 (w.toNat.testBit 20)
  else if o = 0x04 then .fadd rd rs1 rs2
  else if o = 0x05 then .fsub rd rs1 rs2
  else if o = 0x06 then .fmulc rd rs1
  else if o = 0x07 then .fmul rd rs1 rs2
  else if o = 0x08 then .fsqr rd rs1
  else if o = 0x09 then .finv rd rs1
  else if o = 0x10 then .clamp rd rs1
  else if o = 0x11 then .ladder rd rs1 rs2
  else .x448 rd rs1 rs2

/-! ### The ladder over residues -/

/-- The two projective points of a ladder, as residues. -/
structure Points where
  x2 : ZMod p
  z2 : ZMod p
  x3 : ZMod p
  z3 : ZMod p

/-- The two points exchanged when the bit is set. -/
def Points.swap (q : Points) (b : Bool) : Points :=
  if b then ⟨q.x3, q.z3, q.x2, q.z2⟩ else q

/-- Doubling of the first point and differential addition, as formulas over residues (41_scalarmult.md R156). -/
def Points.step (q : Points) (x1 : ZMod p) : Points :=
  let aa := (q.x2 + q.z2) ^ 2
  let cc := (q.x2 - q.z2) ^ 2
  let e := aa - cc
  let da := (q.x3 - q.z3) * (q.x2 + q.z2)
  let cb := (q.x3 + q.z3) * (q.x2 - q.z2)
  ⟨aa * cc, e * (aa + 39081 * e), (da + cb) ^ 2, x1 * (da - cb) ^ 2⟩

/-- The plain Montgomery ladder over bits `n - 1` down to 0 of `k`, swapping in and out at each bit. -/
def refLoop (x1 : ZMod p) (k : Nat) : Nat → Points → Points
  | 0, q     => q
  | n + 1, q => refLoop x1 k n (((q.swap (k.testBit n)).step x1).swap (k.testBit n))

/-- The ladder's result over residues: X2 times Z2^(p-2), as an integer below p. -/
def refLadder (u k : Nat) : Nat :=
  let q := refLoop u k 448 ⟨1, 0, u, 1⟩
  (q.x2 * q.z2 ^ (p - 2)).val

/-- Clamping as arithmetic on the scalar: bits 0 and 1 cleared, bit 447 set (R152). -/
def clampNat (k : Nat) : Nat := k % 2 ^ 447 / 4 * 4 + 2 ^ 447

/-! ### When two states look alike -/

/-- Two states with the same control and status registers and the same operations to come; the F registers, their
marks, the hidden registers and the words read may differ. -/
structure SameControl (s t : State) : Prop where
  busy    : s.busy = t.busy
  done    : s.done = t.done
  err     : s.err = t.err
  errcode : s.errcode = t.errcode
  errinfo : s.errinfo = t.errinfo
  ie      : s.ie = t.ie
  lastcmd : s.lastcmd = t.lastcmd
  pend    : s.pend = t.pend
  inbox   : s.inbox = t.inbox

/-- Two states that differ at most in the hidden registers and the free-value counter. -/
def SameVisible (s t : State) : Prop := { s with hidden := t.hidden, tick := t.tick } = t

/-- Two outcomes of the same kind, with next states related by `R` and reasons equal. -/
def SameOutcome (R : State → State → Prop) : Host.Outcome State Fault Refusal → Host.Outcome State Fault Refusal → Prop
  | .next s, .next t       => R s t
  | .fault a, .fault b     => a = b
  | .refused a, .refused b => a = b
  | _, _                   => False

/-- Every access still to come is inside the window. -/
def InWindow (l : List HostOp) : Prop := ∀ a, HostOp.access a ∈ l → a.off < 4096

/-- The most steps an operation takes while a command is in progress. -/
def opCost : HostOp → Nat
  | .access _ => 1
  | .engine   => 1
  | .wait n   => n + 1
  | .reset    => 1

/-- `k` steps, stopping at the first fault or refusal. -/
def stepN : Nat → State → Host.Outcome State Fault Refusal
  | 0, s     => .next s
  | k + 1, s =>
    match step s with
    | .next t    => stepN k t
    | .fault r   => .fault r
    | .refused r => .refused r

/-- A command of two operands, by its constructor. -/
def twoOperand : List (FReg → FReg → Instr) := [.fnorm, .fcopy, .fmulc, .fsqr, .finv, .clamp]

/-- A command of three operands, by its constructor. -/
def threeOperand : List (FReg → FReg → FReg → Instr) := [.fadd, .fsub, .fmul, .ladder, .x448]

end Sys2Proof.Claims

open Sys2Proof Sys2Proof.Machine Sys2Proof.Claims

/-! ### Encoding -/

/-- R82's worked encodings, both ways. -/
def Obligations.WorkedEncodings : Prop :=
  ∀ iw ∈ ([(.fadd 3 0 1, 0x00010304), (.fcswap 2 5 true, 0x00152003), (.finv 1 0, 0x00000109),
      (.x448 2 0 1, 0x00010212), (.nop, 0x00000000)] : List (Instr × Word)),
    encode iw.1 = iw.2 ∧ decodeWord iw.2 = .ok iw.1

/-- Decoding the encoding of a command gives the command back, every operand at every value (R70 to R73). -/
def Obligations.DecodeOfEncode : Prop :=
  ∀ i : Instr, decodeWord (encode i) = .ok i

/-- A word that decodes is the encoding of what it decodes to, so every command has exactly one word (R70 to R73). -/
def Obligations.EncodeOfDecode : Prop :=
  ∀ (w : Word) (i : Instr), decodeWord w = .ok i → encode i = w

/-- The masks of R72 accept exactly the words whose opcode is mapped and whose unused fields, by R73, are zero. -/
def Obligations.MasksAcceptReservedZeroWords : Prop :=
  ∀ w : Word, (∃ i, decodeWord w = .ok i) ↔ (CmdFields.ofWord w).wellFormed = true

/-! ### Issue, completion, fetch -/

/-- R76, as one atomic event: the four outcomes of a 32-bit write to CMD, in their order. The model's own mark of a faulted
run may be set by an acceptance; UnwrittenReadMarksTheRun says when. -/
def Obligations.CommandWriteOutcomes : Prop :=
  ∀ (s : State) (w : Word) (rest : List HostOp),
    ∃ m : Bool, step { s with inbox := hostWrite 0x00C w :: rest } =
      .next (
        let s0 := { s with inbox := rest }
        if s.busy = true then errorRecorded s0 3 w
        else if mappedOpc (opcOf w) then
          if w &&& maskOf (opcOf w) = BitVec.ofNat 32 (opcOf w) then
            { s0 with lastcmd := w, pend := some (commandOf w), busy := true, done := false, runFault := m }
          else errorRecorded s0 2 w
        else errorRecorded s0 1 w)

/-- On the engine's turn the step is exec of the pending command: when nothing is to come from outside, when the order
token stands next, and when WAIT's polls have run out (R77, R81). -/
def Obligations.StepRunsPendingCommand : Prop :=
  ∀ (s : State) (i : Instr) (rest : List HostOp), s.busy = true → s.pend = some i →
    step { s with inbox := [] } = exec i { s with inbox := [] } ∧
    step { s with inbox := .engine :: rest } = exec i { s with inbox := rest } ∧
    step { s with inbox := .wait 0 :: rest } = exec i { s with inbox := .wait 0 :: rest }

/-- A word that decodes to `i`, placed where the engine's next command stands, is run by the next step as `i`. Two things in
it are the model's choice and no rule's: that the word is placed by clearing BUSY and PEND first (withFetchWord, log
entries 6 and 12), and the exact value of the run's mark, which an unwritten source sets (log entries 4 and 17). -/
def Obligations.PlacedWordRunsDecodedInstruction : Prop :=
  ∀ (s : State) (w : Nat) (i : Instr), w < 2 ^ 32 → decodeTableWord 32 w = some i →
    step (s.withFetchWord 32 w) =
      exec i { s with
        pend := some i, busy := true, done := false, lastcmd := BitVec.ofNat 32 w
        runFault := s.runFault || (sourcesOf i).any fun n => !s.isWritten n }

/-- R63: a CMD write that races the completion of the previous command `i` is accepted if the completion is ordered
first, and rejected with CMD_WHILE_BUSY otherwise, the command in progress not disturbed. The exact value of the run's
mark after the acceptance is the model's choice, its rendering of a fault of the run (log entries 4 and 17). -/
def Obligations.RaceAdmitsBothOrders : Prop :=
  ∀ (s t : State) (i j : Instr) (w : Word) (rest : List HostOp), s.busy = true → s.pend = some i → decodeWord w = .ok j →
    exec i { s with inbox := hostWrite 0x00C w :: rest } = .next t →
    step { s with inbox := .engine :: hostWrite 0x00C w :: rest } = .next t ∧
    step t = .next { t with
      inbox := rest, lastcmd := w, pend := some j, busy := true, done := false
      runFault := t.runFault || (sourcesOf j).any fun n => !t.isWritten n } ∧
    step { s with inbox := hostWrite 0x00C w :: rest } = .next (errorRecorded { s with inbox := rest } 3 w)

/-- No accepted command raises an error, whatever its operand values: every completion is a next state with BUSY
cleared, DONE set, PEND empty, and the error record as it was; an inversion of 0 gives 0 (R200). -/
def Obligations.NoCommandFails : Prop :=
  (∀ (i : Instr) (s : State), ∃ t, exec i s = .next t ∧ Completed s t) ∧
  ∀ (s : State) (rd rs1 : FReg), s.readF rs1 = 0 → ∃ t, exec (.finv rd rs1) s = .next t ∧ t.readF rd = 0

/-- A busy engine becomes idle: from every state that meets the invariant, after at most the cost of the operations to
come, plus one. With no reset among them it does so by completing the command: what exec gives on the state is in the
registers and DONE is 1 (R77's eventual step; with a reset R231 abandons it). The bound is the model's, log entry 6. -/
def Obligations.AcceptedCommandCompletes : Prop :=
  (∀ s : State, s.Inv → s.busy = true → InWindow s.inbox →
    ∃ k, k ≤ (s.inbox.map opCost).sum + 1 ∧ ∃ t, stepN k s = .next t ∧ t.busy = false) ∧
  ∀ (s : State) (i : Instr), s.busy = true → s.pend = some i → InWindow s.inbox → HostOp.reset ∉ s.inbox →
    ∃ k, k ≤ (s.inbox.map opCost).sum + 1 ∧ ∃ t u, stepN k s = .next t ∧ exec i s = .next u ∧
      t.busy = false ∧ t.done = true ∧ t.pend = none ∧ t.f = u.f ∧ t.written = u.written ∧
      t.hidden = u.hidden ∧ t.runFault = u.runFault ∧ t.lastcmd = s.lastcmd

/-- WAIT ends with the engine idle and a read of BUSY = 0 (R81), the pending command completed once, whatever number
of reads saw it busy. -/
def Obligations.WaitEndsIdle : Prop :=
  ∀ (s : State) (i : Instr) (n : Nat) (rest : List HostOp), s.busy = true → s.pend = some i →
    ∃ t u, stepN (n + 2) { s with inbox := .wait n :: rest } = .next t ∧
      exec i { s with inbox := rest } = .next u ∧
      t.inbox = rest ∧ t.busy = false ∧ t.rdata[0] = false ∧ t.rdata[1] = true ∧
      t.f = u.f ∧ t.written = u.written ∧ t.err = s.err ∧ t.lastcmd = s.lastcmd

/-! ### Reset and the invariant -/

/-- R37: the state after reset, as far as the spec gives it. -/
def Obligations.ResetLeaves : Prop := ResetValues State.reset

/-- R230, R231: the reset event gives every register its reset value in any state, so a command in progress is
abandoned and DONE is not set; a legal command word is accepted by the next event. -/
def Obligations.ResetEventLeaves : Prop :=
  ∀ (s : State) (i : Instr) (rest : List HostOp), ∃ t u,
    step { s with inbox := .reset :: hostWrite 0x00C (encode i) :: rest } = .next t ∧ ResetValues t ∧
    t.inbox = hostWrite 0x00C (encode i) :: rest ∧
    step t = .next u ∧ u.busy = true ∧ u.pend = some i ∧ u.lastcmd = encode i ∧ u.err = false

/-- The invariant of the control and status registers holds after reset. -/
def Obligations.ResetMeetsInv : Prop := State.reset.Inv

/-- Every step keeps the invariant: PEND is valid exactly while BUSY, LASTCMD is a legal word and the one in progress,
DONE is 0 while busy, and the error record is 0 or one of the five errors'. -/
def Obligations.StepKeepsInv : Prop :=
  ∀ s t : State, s.Inv → step s = .next t → t.Inv

/-! ### The window -/

/-- R51's map, for every aligned offset of the window. -/
def Obligations.WindowMap : Prop :=
  (∀ n j, windowReg (fieldOffset n j) = .field n j) ∧
  (∀ n j, fieldOffset n j = 0x100 + 64 * n.val + 4 * j.val) ∧
  windowReg 0x000 = .id ∧ windowReg 0x004 = .status ∧ windowReg 0x008 = .ctrl ∧
  windowReg 0x00C = .cmd ∧ windowReg 0x010 = .errinfo ∧
  ∀ off, off < 4096 → off % 4 = 0 →
    ((0x014 ≤ off ∧ off < 0x100) ∨ 0x500 ≤ off → windowReg off = .reserved) ∧
    (0x100 ≤ off ∧ off < 0x500 ∧ 56 ≤ off % 64 → windowReg off = .padding) ∧
    (0x100 ≤ off ∧ off < 0x500 ∧ off % 64 < 56 → ∃ n j, windowReg off = .field n j ∧ fieldOffset n j = off)

/-- R24: what a read of STATUS returns, at any time and with no effect, and what a write to it clears, at any time;
bits 0, 3 and 31 to 4 of the written word do nothing (so also R210's return from an error). -/
def Obligations.StatusReadAndWrite : Prop :=
  ∀ (s : State) (v : Word) (rest : List HostOp),
    (∃ d : Word, step { s with inbox := hostRead 0x004 :: rest } = .next { s with inbox := rest, rdata := d } ∧
      d[0] = s.busy ∧ d[1] = s.done ∧ d[2] = s.err ∧ d[3] = false ∧
      d.extractLsb' 4 4 = s.errcode ∧ d.extractLsb' 8 24 = 0) ∧
    ∃ t, step { s with inbox := hostWrite 0x004 v :: rest } = .next t ∧
      t.done = (s.done && !v[1]) ∧ t.err = (s.err && !v[2]) ∧
      (v[2] = true → t.errcode = 0 ∧ t.errinfo = 0) ∧
      (v[2] = false → t.errcode = s.errcode ∧ t.errinfo = s.errinfo) ∧
      { t with done := s.done, err := s.err, errcode := s.errcode, errinfo := s.errinfo } = { s with inbox := rest }

/-- R27: a read of CTRL gives IE in bit 0 and 0 elsewhere; a write sets IE from bit 0 and changes nothing else, at any
time; IE enables the interrupt output. -/
def Obligations.CtrlReadAndWrite : Prop :=
  ∀ (s : State) (v : Word) (rest : List HostOp),
    step { s with inbox := hostRead 0x008 :: rest } =
      .next { s with inbox := rest, rdata := if s.ie = true then 1 else 0 } ∧
    step { s with inbox := hostWrite 0x008 v :: rest } = .next { s with inbox := rest, ie := v.toNat % 2 == 1 } ∧
    State.reset.ie = false ∧ (s.ie = false → s.irq = false) ∧ (s.ie = true → s.irq = (s.done || s.err))

/-- R30: ID reads the constant at any time, a write to it is ignored, and reset does not change it. -/
def Obligations.IdIsConstant : Prop :=
  ∀ (s : State) (v : Word) (rest : List HostOp),
    step { s with inbox := hostRead 0x000 :: rest } = .next { s with inbox := rest, rdata := 0x38343458 } ∧
    step { s with inbox := hostWrite 0x000 v :: rest } = .next { s with inbox := rest } ∧
    ∃ t, step { s with inbox := .reset :: hostRead 0x000 :: rest } = .next t ∧
      step t = .next { t with inbox := rest, rdata := 0x38343458 }

/-- R28: a write to CMD presents its word as a command, and an accepted word is stored in LASTCMD, a rejected one never; a
read of CMD returns LASTCMD with no side effect; LASTCMD is 0 after reset; a step changes it only by accepting the word
it then holds, or by reset. -/
def Obligations.CmdReadReturnsLastAccepted : Prop :=
  (∀ (s : State) (rest : List HostOp),
    step { s with inbox := hostRead 0x00C :: rest } = .next { s with inbox := rest, rdata := s.lastcmd }) ∧
  (∀ (s : State) (w : Word) (i : Instr) (rest : List HostOp), s.busy = false → decodeWord w = .ok i →
    ∃ t, step { s with inbox := hostWrite 0x00C w :: rest } = .next t ∧ t.lastcmd = w ∧ t.pend = some i ∧
      t.busy = true ∧ step { t with inbox := hostRead 0x00C :: rest } = .next { t with inbox := rest, rdata := w }) ∧
  (∀ (s : State) (w : Word) (e : DecodeError) (rest : List HostOp), s.busy = true ∨ decodeWord w = .error e →
    ∃ t, step { s with inbox := hostWrite 0x00C w :: rest } = .next t ∧ t.lastcmd = s.lastcmd ∧
      t.pend = s.pend ∧ t.busy = s.busy) ∧
  State.reset.lastcmd = 0 ∧
  ∀ s t : State, step s = .next t → t.lastcmd ≠ s.lastcmd →
    (∃ w i, s.inbox = hostWrite 0x00C w :: t.inbox ∧ s.busy = false ∧ decodeWord w = .ok i ∧ t.lastcmd = w ∧ t.pend = some i) ∨
    (s.inbox = .reset :: t.inbox ∧ t.lastcmd = 0)

/-- R53, R54: words 14 and 15 of a slot and the reserved offsets read 0 and ignore writes, with no error and no other
effect, at any time; writes to the read-only registers ID and ERRINFO, and the read-only and reserved bits of a write to
STATUS or CTRL, are ignored in the same way. -/
def Obligations.ReservedAndPaddingAreInert : Prop :=
  ∀ (s : State) (off : Nat) (v : Word) (rest : List HostOp),
    (off % 4 = 0 →
      ((0x014 ≤ off ∧ off < 0x100) ∨ (0x500 ≤ off ∧ off < 0x1000) ∨ (0x100 ≤ off ∧ off < 0x500 ∧ 56 ≤ off % 64)) →
      step { s with inbox := hostRead off :: rest } = .next { s with inbox := rest, rdata := 0 } ∧
      step { s with inbox := hostWrite off v :: rest } = .next { s with inbox := rest }) ∧
    (off = 0x000 ∨ off = 0x010 → step { s with inbox := hostWrite off v :: rest } = .next { s with inbox := rest }) ∧
    step { s with inbox := hostWrite 0x004 v :: rest } = step { s with inbox := hostWrite 0x004 (v &&& 6) :: rest } ∧
    step { s with inbox := hostWrite 0x004 (v &&& ~~~6) :: rest } = .next { s with inbox := rest } ∧
    step { s with inbox := hostWrite 0x008 v :: rest } = step { s with inbox := hostWrite 0x008 (v &&& 1) :: rest }

/-- R29: ERRINFO reads the record, with no effect, and resets to 0; the error raised while ERR = 0 records the rejected
command word (codes 1 to 3) or the access's offset, write flag and size code (codes 4 and 5), every other bit 0; it is
cleared with ERR. -/
def Obligations.ErrinfoRecordsTheAccess : Prop :=
  (∀ (s : State) (rest : List HostOp),
    step { s with inbox := hostRead 0x010 :: rest } = .next { s with inbox := rest, rdata := s.errinfo }) ∧
  State.reset.errinfo = 0 ∧
  (∀ (s : State) (v : Word) (rest : List HostOp), v[2] = true →
    ∃ t, step { s with inbox := hostWrite 0x004 v :: rest } = .next t ∧ t.err = false ∧ t.errinfo = 0) ∧
  ∀ s t : State, step s = .next t → s.err = false → t.err = true →
    ((t.errcode = 1 ∨ t.errcode = 2 ∨ t.errcode = 3) ∧
      ∃ w, s.inbox = hostWrite 0x00C w :: t.inbox ∧ t.errinfo = w) ∨
    ((t.errcode = 4 ∨ t.errcode = 5) ∧ ∃ a, s.inbox = .access a :: t.inbox ∧
      (t.errinfo.extractLsb' 0 12).toNat = a.off ∧ t.errinfo.extractLsb' 12 4 = 0 ∧
      t.errinfo[16] = (match a.kind with
        | .read => false
        | .write _ => true) ∧
      t.errinfo.extractLsb' 17 2 = (match a.size with
        | .byte => 0
        | .half => 1
        | .word => 2
        | .other => 3) ∧
      t.errinfo.extractLsb' 19 13 = 0)

/-- R52: an idle read of word j of F[n] returns bytes 4j to 4j+3, least significant first; an idle write of it sets
those four bytes and changes no other byte of F[n], no other register and nothing else; a register counts as written
exactly when all its 14 words have been. -/
def Obligations.FieldWordLoadAndStore : Prop :=
  ∀ (s : State) (n : FReg) (j : Fin 14) (w : Word) (rest : List HostOp),
    (s.busy = false →
      (∃ t, step { s with inbox := hostRead (0x100 + 64 * n.val + 4 * j.val) :: rest } = .next t ∧
        t.rdata = byteOf (s.readF n) (4 * j.val + 3) ++ byteOf (s.readF n) (4 * j.val + 2) ++
          byteOf (s.readF n) (4 * j.val + 1) ++ byteOf (s.readF n) (4 * j.val)) ∧
      ∃ t, step { s with inbox := hostWrite (0x100 + 64 * n.val + 4 * j.val) w :: rest } = .next t ∧
        (∀ k, k < 56 → byteOf (t.readF n) k =
          if 4 * j.val ≤ k ∧ k < 4 * j.val + 4 then w.extractLsb' (8 * (k - 4 * j.val)) 8 else byteOf (s.readF n) k) ∧
        (∀ m, m ≠ n → t.readF m = s.readF m) ∧
        (∀ k : Fin 14, t.written[n.val].getLsbD k.val = (decide (k = j) || s.written[n.val].getLsbD k.val)) ∧
        (∀ m : FReg, m ≠ n → t.written[m.val] = s.written[m.val]) ∧
        { t with f := s.f, written := s.written } = { s with inbox := rest }) ∧
    (s.isWritten n = true ↔ ∀ k : Fin 14, s.written[n.val].getLsbD k.val = true)

/-- R81's LDF and STF: after LDF of `v` to F[n] the register holds `v` and counts as written, and every other register,
mark and field is as before; STF then returns the fourteen words of `v` in order and changes no register. -/
def Obligations.LoadThenStoreReturnsTheValue : Prop :=
  ∀ (s : State) (n : FReg) (v : FieldVal) (rest : List HostOp), s.busy = false →
    ∃ t, stepN 14 { s with inbox := ldf n v ++ stf n ++ rest } = .next t ∧
      t.readF n = v ∧ t.isWritten n = true ∧ (∀ m, m ≠ n → t.readF m = s.readF m) ∧
      (∀ m : FReg, m ≠ n → t.written[m.val] = s.written[m.val]) ∧
      { t with f := s.f, written := s.written } = { s with inbox := stf n ++ rest } ∧
      ∀ j : Fin 14, ∃ u, stepN (j.val + 1) t = .next u ∧ u.rdata = v.extractLsb' (32 * j.val) 32 ∧
        { u with inbox := t.inbox, rdata := t.rdata } = t

/-- R59: while BUSY = 1 a read of an F word returns 0 with no error, a write to one is ignored and raises
WRITE_WHILE_BUSY, a write to CMD is rejected with CMD_WHILE_BUSY, and every other legal access does what it does when
idle. -/
def Obligations.BusyWindow : Prop :=
  ∀ (s : State) (n : FReg) (j : Fin 14) (w : Word) (rest : List HostOp), s.busy = true →
    step { s with inbox := hostRead (fieldOffset n j) :: rest } = .next { s with inbox := rest, rdata := 0 } ∧
    step { s with inbox := hostWrite (fieldOffset n j) w :: rest } =
      .next (errorRecorded { s with inbox := rest } 4 (BitVec.ofNat 32 (fieldOffset n j + 2 ^ 16 + 2 * 2 ^ 17))) ∧
    step { s with inbox := hostWrite 0x00C w :: rest } = .next (errorRecorded { s with inbox := rest } 3 w) ∧
    ∀ off, off < 4096 → off % 4 = 0 → (∀ m k, windowReg off ≠ .field m k) →
      (∃ t u, step { s with inbox := hostRead off :: rest } = .next t ∧
        step { s with inbox := hostRead off :: rest, busy := false } = .next u ∧
        { t with rdata := u.rdata, busy := false } = u ∧
        (off ≠ 0x004 → t.rdata = u.rdata) ∧ (off = 0x004 → t.rdata = u.rdata ||| 1)) ∧
      (off ≠ 0x00C → ∃ t u, step { s with inbox := hostWrite off w :: rest } = .next t ∧
        step { s with inbox := hostWrite off w :: rest, busy := false } = .next u ∧ { t with busy := false } = u)

/-- R56, R206, and the first place of R208: an access of another width or alignment raises BAD_ACCESS whatever else
would apply to it; a write changes nothing else, a read returns 0. The record is R29's. -/
def Obligations.BadAccessComesFirst : Prop :=
  ∀ (s : State) (a : Access) (rest : List HostOp), a.off < 4096 → (a.size ≠ .word ∨ a.off % 4 ≠ 0) →
    step { s with inbox := .access a :: rest } =
      .next (
        let size := match a.size with
          | .byte => 0
          | .half => 1
          | .word => 2
          | .other => 3
        let wr := match a.kind with
          | .read => 0
          | .write _ => 1
        let t := errorRecorded { s with inbox := rest } 5 (BitVec.ofNat 32 (a.off + wr * 2 ^ 16 + size * 2 ^ 17))
        match a.kind with
          | .read => { t with rdata := 0 }
          | .write _ => t)

/-- An access at an offset of 0x1000 or more is no access of this window: the run stops under its own name (the model's
rendering of R50; log entry 10). -/
def Obligations.OutsideWindowStops : Prop :=
  ∀ (s : State) (a : Access) (rest : List HostOp), 4096 ≤ a.off →
    step { s with inbox := .access a :: rest } = .fault .outsideWindow

/-- R58's first half: a legal read of any offset leaves every register of the machine as it was. The model's own mark
of a faulted run (log entry 4) may be set by an idle read of an unwritten F register. -/
def Obligations.ReadsHaveNoSideEffect : Prop :=
  ∀ (s : State) (off : Nat) (rest : List HostOp), off < 4096 → off % 4 = 0 →
    ∃ (d : Word) (m : Bool), step { s with inbox := hostRead off :: rest } =
      .next { s with inbox := rest, rdata := d, runFault := m }

/-! ### Whole-machine rules -/

/-- R207, R211: while an error is recorded a step keeps the record, unless it is a STATUS write with bit 2 set or
reset. -/
def Obligations.FirstErrorWins : Prop :=
  ∀ s t : State, step s = .next t → s.err = true →
    (t.err = true ∧ t.errcode = s.errcode ∧ t.errinfo = s.errinfo) ∨
    (∃ v, s.inbox = hostWrite 0x004 v :: t.inbox ∧ v[2] = true) ∨ s.inbox = .reset :: t.inbox

/-- R207's other half over the whole machine: a step that sets ERR is a host access, records one of the five codes, and
leaves the F registers, BUSY, DONE, PEND, LASTCMD, CTRL and the hidden registers as they were. -/
def Obligations.ErrorsArePrecise : Prop :=
  ∀ s t : State, step s = .next t → s.err = false → t.err = true →
    (∃ a, s.inbox = .access a :: t.inbox) ∧ 1 ≤ t.errcode.toNat ∧ t.errcode.toNat ≤ 5 ∧
    t.f = s.f ∧ t.written = s.written ∧ t.busy = s.busy ∧ t.done = s.done ∧ t.pend = s.pend ∧
    t.lastcmd = s.lastcmd ∧ t.ie = s.ie ∧ t.hidden = s.hidden

/-- R25: an acceptance sets BUSY, that command's completion or reset clears it, and no other step writes it. -/
def Obligations.BusyChangesOnly : Prop :=
  (∀ (s : State) (w : Word) (i : Instr) (rest : List HostOp), s.busy = false → decodeWord w = .ok i →
    ∃ t, step { s with inbox := hostWrite 0x00C w :: rest } = .next t ∧ t.busy = true ∧ t.pend = some i) ∧
  (∀ (i : Instr) (s : State), ∃ t, exec i s = .next t ∧ t.busy = false) ∧
  (∀ (s : State) (rest : List HostOp), ∃ t, step { s with inbox := .reset :: rest } = .next t ∧ t.busy = false) ∧
  ∀ s t : State, step s = .next t →
    (s.busy = false → t.busy = true →
      ∃ w i, s.inbox = hostWrite 0x00C w :: t.inbox ∧ decodeWord w = .ok i ∧ t.pend = some i ∧ t.lastcmd = w) ∧
    (s.busy = true → t.busy = false →
      s.inbox = .reset :: t.inbox ∨ ∃ i, s.pend = some i ∧ exec i { s with inbox := t.inbox } = .next t)

/-- R26: an acceptance clears DONE, a completion sets it, a STATUS write with bit 1 set or reset clears it, a rejected
command word does not change it, and nothing else does. -/
def Obligations.DoneChangesOnly : Prop :=
  (∀ (s : State) (w : Word) (i : Instr) (rest : List HostOp), s.busy = false → decodeWord w = .ok i →
    ∃ t, step { s with inbox := hostWrite 0x00C w :: rest } = .next t ∧ t.done = false) ∧
  (∀ (i : Instr) (s : State), ∃ t, exec i s = .next t ∧ t.done = true) ∧
  (∀ (s : State) (v : Word) (rest : List HostOp), v[1] = true →
    ∃ t, step { s with inbox := hostWrite 0x004 v :: rest } = .next t ∧ t.done = false) ∧
  (∀ (s : State) (rest : List HostOp), ∃ t, step { s with inbox := .reset :: rest } = .next t ∧ t.done = false) ∧
  (∀ (s : State) (w : Word) (e : DecodeError) (rest : List HostOp), s.busy = true ∨ decodeWord w = .error e →
    ∃ t, step { s with inbox := hostWrite 0x00C w :: rest } = .next t ∧ t.done = s.done) ∧
  ∀ s t : State, step s = .next t →
    (s.done = false → t.done = true → ∃ i, s.pend = some i ∧ exec i { s with inbox := t.inbox } = .next t) ∧
    (s.done = true → t.done = false →
      (∃ w i, s.busy = false ∧ s.inbox = hostWrite 0x00C w :: t.inbox ∧ decodeWord w = .ok i ∧ t.pend = some i) ∨
      (∃ v, s.inbox = hostWrite 0x004 v :: t.inbox ∧ v[1] = true) ∨
      s.inbox = .reset :: t.inbox)

/-- A step changes the field registers only by a completion, an idle host write to a data word, or reset (R22, R58). -/
def Obligations.FieldRegistersChangeOnly : Prop :=
  ∀ s t : State, step s = .next t → t.f ≠ s.f →
    (∃ i, s.busy = true ∧ s.pend = some i ∧ exec i { s with inbox := t.inbox } = .next t) ∨
    (∃ n j v, s.busy = false ∧ s.inbox = hostWrite (fieldOffset n j) v :: t.inbox) ∨
    s.inbox = .reset :: t.inbox

/-- R64: whatever the host does while a command is in progress, the command that then completes and its operand values
are those it was accepted with. -/
def Obligations.OperandsStandUntilCompletion : Prop :=
  ∀ (s : State) (l : List Access) (rest : List HostOp), s.busy = true → (∀ a ∈ l, a.off < 4096) →
    ∃ t, stepN l.length { s with inbox := l.map .access ++ rest } = .next t ∧
      t.f = s.f ∧ t.written = s.written ∧ t.pend = s.pend ∧ t.busy = true ∧ t.lastcmd = s.lastcmd ∧
      t.hidden = s.hidden ∧ t.inbox = rest

/-- R212, R36: IRQ is the level IE and (DONE or ERR); so a completion asserts it exactly when IE is set, and it is low
once DONE and ERR are both cleared, once IE is cleared, and after reset. -/
def Obligations.IrqLevel : Prop :=
  (∀ s : State, s.irq = true ↔ s.ie = true ∧ (s.done = true ∨ s.err = true)) ∧
  (∀ (i : Instr) (s : State), ∃ t, exec i s = .next t ∧ t.irq = s.ie) ∧
  (∀ (s : State) (v : Word) (rest : List HostOp), v[1] = true → v[2] = true →
    ∃ t, step { s with inbox := hostWrite 0x004 v :: rest } = .next t ∧ t.irq = false) ∧
  (∀ (s : State) (v : Word) (rest : List HostOp), v[0] = false →
    ∃ t, step { s with inbox := hostWrite 0x008 v :: rest } = .next t ∧ t.irq = false) ∧
  State.reset.irq = false

/-- The error checks look only at the command word and the access, never at register contents (R240): two states with
the same control and status registers and the same operations to come, whatever their field registers hold, keep the
same control and status registers after a step. -/
def Obligations.ControlIsIndependentOfData : Prop :=
  ∀ s t : State, SameControl s t → SameOutcome SameControl (step s) (step t)

/-- The hidden registers are never observed (R32, R33, R162): two states that differ only in them, and in the counter
their free values come from, differ only so after a step. -/
def Obligations.HiddenRegistersAreUnobservable : Prop :=
  ∀ s t : State, SameVisible s t → SameOutcome SameVisible (step s) (step t)

/-- The model's rendering of R23, a fault of the run (log entry 4): the acceptance of a command that names an unwritten
register as a source, its completion (log entry 17), and an idle host read of a data word of one set the run's mark. No
step clears it, so a command that reset abandons leaves it set. -/
def Obligations.UnwrittenReadMarksTheRun : Prop :=
  (∀ (s : State) (w : Word) (i : Instr) (rest : List HostOp), s.busy = false → decodeWord w = .ok i →
    ∃ t u, step { s with inbox := hostWrite 0x00C w :: .reset :: rest } = .next t ∧
      (t.runFault = true ↔ s.runFault = true ∨ ∃ n ∈ sourcesOf i, s.isWritten n = false) ∧
      step t = .next u ∧ u.busy = false ∧ u.runFault = t.runFault) ∧
  (∀ (rd rs1 rs2 : FReg) (b : Bool), sourcesOf .nop = [] ∧ sourcesOf (.fcswap rs1 rs2 b) = [rs1, rs2] ∧
    (∀ mk ∈ twoOperand, sourcesOf (mk rd rs1) = [rs1]) ∧ ∀ mk ∈ threeOperand, sourcesOf (mk rd rs1 rs2) = [rs1, rs2]) ∧
  (∀ (s : State) (rd rs1 rs2 : FReg) (b : Bool), (s.isWritten rs1 = false ∨ s.isWritten rs2 = false) →
    (∃ t, exec (.fcswap rs1 rs2 b) s = .next t ∧ t.runFault = true) ∧
    ∀ mk ∈ threeOperand, ∃ t, exec (mk rd rs1 rs2) s = .next t ∧ t.runFault = true) ∧
  (∀ (s : State) (rd rs1 : FReg), s.isWritten rs1 = false →
    ∀ mk ∈ twoOperand, ∃ t, exec (mk rd rs1) s = .next t ∧ t.runFault = true) ∧
  (∀ (s : State) (n : FReg) (j : Fin 14) (rest : List HostOp), s.isWritten n = false → s.busy = false →
    ∃ t, step { s with inbox := hostRead (fieldOffset n j) :: rest } = .next t ∧ t.runFault = true) ∧
  ∀ s t : State, step s = .next t → s.runFault = true → t.runFault = true

/-! ### P_REP and the field unit -/

/-- R101: every instance's result is congruent to the true result and below 2^448, every function that obeys this law is
an instance, a result whose residue exceeds 2^224 is the same under all of them, and any other is one of two values. -/
def Obligations.PRepIsExactlyTheLaw : Prop :=
  (∀ (P : PRep) (c : RepCall), (val (rep P c) : Int) % p = trueResult c % p) ∧
  (∀ f : RepCall → FieldVal, (∀ c, (val (f c) : Int) % p = trueResult c % p) → ∃ P, ∀ c, rep P c = f c) ∧
  (∀ c : RepCall, (2 ^ 224 < trueResult c % p) → ∀ P Q, rep P c = rep Q c) ∧
  ∀ c : RepCall, (trueResult c % p ≤ 2 ^ 224) →
    (∀ P, (val (rep P c) : Int) = trueResult c % p ∨ (val (rep P c) : Int) = trueResult c % p + p) ∧
    ∃ P Q, rep P c ≠ rep Q c

/-- R102: every integer a command accumulates is below 2^464 and congruent to the true result; the fold of it is the
value the loop leaves after at most two passes; and the default instance's results are those folds. -/
def Obligations.FoldIsTheDefaultInstance : Prop :=
  (∀ c : RepCall, accumulated c < 2 ^ 464 ∧ (accumulated c : Int) % p = trueResult c % p ∧
    rep foldRep c = fold (accumulated c)) ∧
  ∀ s : Nat, s < 2 ^ 464 → ∃ k, k ≤ 2 ∧ (foldPass)^[k] s < 2 ^ 448 ∧ val (fold s) = (foldPass)^[k] s ∧
    ∀ m, m < k → 2 ^ 448 ≤ (foldPass)^[m] s

/-- FNORM (R110): the result is that of the two-pass byte method, which is the canonical residue; pass 1's carry is 1
exactly when the input is at least p; the corner cases and idempotence. -/
def Obligations.FnormCompletes : Prop :=
  (∀ (s : State) (rd rs1 : FReg), ∃ t, exec (.fnorm rd rs1) s = .next t ∧
    WritesReg s t rd (normBytes (s.readF rs1)) ∧ val (t.readF rd) = val (s.readF rs1) % p) ∧
  (∀ a, normCarry a = if p ≤ val a then 1 else 0) ∧
  normBytes (enc p) = 0 ∧ normBytes (enc (2 ^ 448 - 1)) = enc (2 ^ 224) ∧
  normBytes (enc (p - 1)) = enc (p - 1) ∧ normBytes 0 = 0 ∧
  ∀ x, normBytes (normBytes x) = normBytes x

/-- FCOPY (R111): the bytes are copied with no arithmetic; a copy of p stays p. -/
def Obligations.FcopyCompletes : Prop :=
  ∀ (s : State) (rd rs1 : FReg), ∃ t, exec (.fcopy rd rs1) s = .next t ∧ WritesReg s t rd (s.readF rs1)

/-- FCSWAP (R112): the contents are exchanged exactly when `b` is 1, by bytes, and both registers are written for
either value; equal registers keep their value; swapping twice restores both. -/
def Obligations.FcswapCompletes : Prop :=
  ∀ (s : State) (rs1 rs2 : FReg) (b : Bool), ∃ t, exec (.fcswap rs1 rs2 b) s = .next t ∧ Completed s t ∧
    t.readF rs1 = (if b = true then s.readF rs2 else s.readF rs1) ∧
    t.readF rs2 = (if b = true then s.readF rs1 else s.readF rs2) ∧
    t.isWritten rs1 = true ∧ t.isWritten rs2 = true ∧
    (∀ n, n ≠ rs1 → n ≠ rs2 → t.readF n = s.readF n) ∧
    (∀ n : FReg, n ≠ rs1 → n ≠ rs2 → t.written[n.val] = s.written[n.val]) ∧
    ∃ u, exec (.fcswap rs1 rs2 b) t = .next u ∧ u.f = s.f

/-- FADD (R113): the law, the default instance's value, and the corner cases. -/
def Obligations.FaddCompletes : Prop :=
  (∀ (s : State) (rd rs1 rs2 : FReg), ∃ t, exec (.fadd rd rs1 rs2) s = .next t ∧
    WritesReg s t rd (rep Config.pRep (.fadd (s.readF rs1) (s.readF rs2))) ∧
    val (t.readF rd) % p = (val (s.readF rs1) + val (s.readF rs2)) % p) ∧
  (∀ a b, rep foldRep (.fadd a b) = fold (val a + val b)) ∧
  rep foldRep (.fadd (enc (p - 1)) 1) = enc p ∧
  rep foldRep (.fadd (enc (2 ^ 448 - 1)) (enc (2 ^ 448 - 1))) = enc (2 ^ 225) ∧
  (∀ x, rep foldRep (.fadd x x) = fold (2 * val x)) ∧
  rep foldRep (.fadd 2 3) = 5 ∧ ∀ P, rep P (.fadd 2 3) % enc p = 5

/-- FSUB (R114): the law, first operand minus second, the byte offsets that sum to 2p, the default instance's value, and
the corner cases. -/
def Obligations.FsubCompletes : Prop :=
  (∀ (s : State) (rd rs1 rs2 : FReg), ∃ t, exec (.fsub rd rs1 rs2) s = .next t ∧
    WritesReg s t rd (rep Config.pRep (.fsub (s.readF rs1) (s.readF rs2))) ∧
    (val (t.readF rd) : Int) % p = ((val (s.readF rs1) : Int) - val (s.readF rs2)) % p) ∧
  ((List.range 56).map fun k => (if k = 28 then 0x1fc else 0x1fe) * 256 ^ k).sum = 2 * p ∧
  (∀ a b : FieldVal, val b < val a + 2 * p ∧ val a + 2 * p - val b < 2 ^ 450) ∧
  (∀ a b, rep foldRep (.fsub a b) = fold (val a + 2 * p - val b)) ∧
  (∀ x, rep foldRep (.fsub x x) = enc p) ∧
  rep foldRep (.fsub 0 1) = enc (p - 1) ∧ rep foldRep (.fsub 1 0) = enc (p + 1) ∧
  rep foldRep (.fsub 0 (enc (2 ^ 448 - 1))) = enc (p - 2 ^ 224) ∧
  ∀ P, rep P (.fsub 3 5) = enc (p - 2)

/-- FMULC (R115): the law, the default instance's value, and the corner cases. -/
def Obligations.FmulcCompletes : Prop :=
  (∀ (s : State) (rd rs1 : FReg), ∃ t, exec (.fmulc rd rs1) s = .next t ∧
    WritesReg s t rd (rep Config.pRep (.fmulc (s.readF rs1))) ∧
    val (t.readF rd) % p = 39081 * val (s.readF rs1) % p) ∧
  (∀ a, rep foldRep (.fmulc a) = fold (39081 * val a)) ∧
  rep foldRep (.fmulc 0) = 0 ∧ rep foldRep (.fmulc 1) = enc 39081 ∧
  rep foldRep (.fmulc (enc (p - 1))) = enc (p - 39081) ∧
  rep foldRep (.fmulc (enc (2 ^ 448 - 1))) = enc (39081 * 2 ^ 224) ∧
  rep foldRep (.fmulc (enc p)) = enc p

/-- FMUL (R116): the law, the first fold's congruence and bound, the default instance's value, and the corner cases. -/
def Obligations.FmulCompletes : Prop :=
  (∀ (s : State) (rd rs1 rs2 : FReg), ∃ t, exec (.fmul rd rs1 rs2) s = .next t ∧
    WritesReg s t rd (rep Config.pRep (.fmul (s.readF rs1) (s.readF rs2))) ∧
    val (t.readF rd) % p = val (s.readF rs1) * val (s.readF rs2) % p) ∧
  (∀ T, T < 2 ^ 896 → mulFold T < 2 ^ 450 ∧ mulFold T % p = T % p) ∧
  (∀ a b, rep foldRep (.fmul a b) = fold (mulFold (val a * val b))) ∧
  (∀ P x y, val x % p = 0 ∨ val y % p = 0 → val (rep P (.fmul x y)) % p = 0) ∧
  (∀ x, rep foldRep (.fmul 0 x) = 0) ∧ rep foldRep (.fmul (enc p) 5) = enc p ∧
  rep foldRep (.fmul (enc (p - 1)) (enc (p - 1))) = enc (p + 1) ∧
  rep foldRep (.fmul (enc (2 ^ 448 - 1)) (enc (2 ^ 448 - 1))) = enc (2 ^ 224 + 1) ∧
  rep foldRep (.fmul 2 3) = 6

/-- FSQR (R117): the canonical residue of the square, under every instance, and the corner cases. -/
def Obligations.FsqrCompletes : Prop :=
  (∀ (s : State) (rd rs1 : FReg), ∃ t, exec (.fsqr rd rs1) s = .next t ∧
    WritesReg s t rd (enc (val (s.readF rs1) ^ 2 % p))) ∧
  (∀ P a, sqr P a = norm (rep P (.fmul a a)) ∧ sqr P a = enc (val a ^ 2 % p) ∧ val (sqr P a) < p) ∧
  ∀ P, sqr P (enc (p - 1)) = 1 ∧ sqr P (enc (2 ^ 448 - 1)) = enc (2 ^ 224 + 1) ∧ sqr P (enc p) = 0

/-- FINV: the fixed chain computes the canonical residue of the operand's (p-2)-th power, under every instance of
P_REP, so a zero operand (0 or p) gives 0; the other corner cases of R118. That the power is the inverse of a nonzero
operand rests on p being prime, and is not stated. -/
def Obligations.FinvCompletes : Prop :=
  (∀ (s : State) (rd rs1 : FReg), ∃ t, exec (.finv rd rs1) s = .next t ∧
    WritesReg s t rd (enc (val (s.readF rs1) ^ (p - 2) % p))) ∧
  (∀ P a, val (inv P a) = val a ^ (p - 2) % p ∧ (val a % p = 0 → inv P a = 0)) ∧
  ∀ P, inv P 1 = 1 ∧ inv P (enc (p - 1)) = enc (p - 1) ∧ inv P 2 = enc (2 ^ 447 - 2 ^ 223) ∧
    inv P (enc (2 ^ 448 - 1)) = enc (2 ^ 224 - 1)

/-- Which outputs are normalized (R105): FNORM's, FSQR's and FINV's always; FADD's, FSUB's, FMULC's and FMUL's obey
R101's law; FCOPY's and FCSWAP's exactly when their inputs are. -/
def Obligations.NormalizedOutputs : Prop :=
  (∀ (s : State) (rd rs1 : FReg), ∀ mk ∈ ([.fnorm, .fsqr, .finv] : List (FReg → FReg → Instr)),
    ∃ t, exec (mk rd rs1) s = .next t ∧ val (t.readF rd) < p) ∧
  (∀ (s : State) (rd rs1 rs2 : FReg),
    (∃ t, exec (.fadd rd rs1 rs2) s = .next t ∧
      (val (t.readF rd) : Int) % p = trueResult (.fadd (s.readF rs1) (s.readF rs2)) % p) ∧
    (∃ t, exec (.fsub rd rs1 rs2) s = .next t ∧
      (val (t.readF rd) : Int) % p = trueResult (.fsub (s.readF rs1) (s.readF rs2)) % p) ∧
    (∃ t, exec (.fmulc rd rs1) s = .next t ∧
      (val (t.readF rd) : Int) % p = trueResult (.fmulc (s.readF rs1)) % p) ∧
    ∃ t, exec (.fmul rd rs1 rs2) s = .next t ∧
      (val (t.readF rd) : Int) % p = trueResult (.fmul (s.readF rs1) (s.readF rs2)) % p) ∧
  (∀ (s : State) (rd rs1 : FReg), ∃ t, exec (.fcopy rd rs1) s = .next t ∧
    (isNormalized (t.readF rd) = true ↔ isNormalized (s.readF rs1) = true)) ∧
  ∀ (s : State) (rs1 rs2 : FReg) (b : Bool), ∃ t, exec (.fcswap rs1 rs2 b) s = .next t ∧
    (isNormalized (t.readF rs1) = true ∧ isNormalized (t.readF rs2) = true ↔
      isNormalized (s.readF rs1) = true ∧ isNormalized (s.readF rs2) = true)

/-- R103: the result of a command depends only on its operands' values, so any of its registers may be equal. -/
def Obligations.AliasingDoesNotMatter : Prop :=
  ∀ (s s' : State) (rd rs1 rs2 rd' rs1' rs2' : FReg), s.readF rs1 = s'.readF rs1' → s.readF rs2 = s'.readF rs2' →
    (∀ mk ∈ threeOperand, ∃ t t', exec (mk rd rs1 rs2) s = .next t ∧ exec (mk rd' rs1' rs2') s' = .next t' ∧
      t.readF rd = t'.readF rd') ∧
    (∀ mk ∈ twoOperand, ∃ t t', exec (mk rd rs1) s = .next t ∧ exec (mk rd' rs1') s' = .next t' ∧
      t.readF rd = t'.readF rd') ∧
    ∀ b, ∃ t t', exec (.fcswap rs1 rs2 b) s = .next t ∧ exec (.fcswap rs1' rs2' b) s' = .next t' ∧
      t.readF rs1 = t'.readF rs1' ∧ t.readF rs2 = t'.readF rs2'

/-- What a completion leaves of the hidden registers and of the model's own fields. A multiply or square uses ACC, an
inversion ACC and its temporary, a ladder all of them (R32, R33); what they then hold is free (log entry 3). Every
command leaves the operations to come and the last word read, and marks the run as log entry 4 says. -/
def Obligations.CompletionFrame : Prop :=
  (∀ s : State, ∃ t, exec .nop s = .next t ∧ KeepsHidden s t ∧ OwnFields s t []) ∧
  (∀ (s : State) (rd rs1 : FReg), ∀ mk ∈ twoOperand, ∃ t, exec (mk rd rs1) s = .next t ∧ OwnFields s t [rs1]) ∧
  (∀ (s : State) (rd rs1 rs2 : FReg), ∀ mk ∈ threeOperand,
    ∃ t, exec (mk rd rs1 rs2) s = .next t ∧ OwnFields s t [rs1, rs2]) ∧
  (∀ (s : State) (rs1 rs2 : FReg) (b : Bool),
    ∃ t, exec (.fcswap rs1 rs2 b) s = .next t ∧ KeepsHidden s t ∧ OwnFields s t [rs1, rs2]) ∧
  (∀ (s : State) (rd rs1 : FReg), ∀ mk ∈ ([.fnorm, .fcopy, .fmulc, .clamp] : List (FReg → FReg → Instr)),
    ∃ t, exec (mk rd rs1) s = .next t ∧ KeepsHidden s t) ∧
  (∀ (s : State) (rd rs1 rs2 : FReg), ∀ mk ∈ ([.fadd, .fsub] : List (FReg → FReg → FReg → Instr)),
    ∃ t, exec (mk rd rs1 rs2) s = .next t ∧ KeepsHidden s t) ∧
  (∀ (s : State) (rd rs1 rs2 : FReg), ∃ t, exec (.fmul rd rs1 rs2) s = .next t ∧
    { t.hidden with acc := s.hidden.acc } = s.hidden) ∧
  (∀ (s : State) (rd rs1 : FReg), ∃ t, exec (.fsqr rd rs1) s = .next t ∧
    { t.hidden with acc := s.hidden.acc } = s.hidden) ∧
  ∀ (s : State) (rd rs1 : FReg), ∃ t, exec (.finv rd rs1) s = .next t ∧
    { t.hidden with acc := s.hidden.acc, finvT := s.hidden.finvT } = s.hidden

/-! ### The controller -/

/-- NOP (R160): it completes, changes no register, and a NOP issued from idle with no error recorded shows STATUS with
BUSY alone set, then with DONE set; a NOP word with any other bit set is RESERVED_FIELD. -/
def Obligations.NopCompletes : Prop :=
  (∀ s : State, ∃ t, exec .nop s = .next t ∧ WritesNone s t) ∧
  (∀ (s : State) (rest : List HostOp), s.busy = false → s.err = false → s.errcode = 0 →
    ∃ t u, step { s with inbox := hostWrite 0x00C 0 :: .engine :: rest } = .next t ∧ t.statusWord = 1 ∧
      step t = .next u ∧ u.statusWord = 2 ∧ u.f = s.f ∧ u.written = s.written ∧ u.lastcmd = 0) ∧
  ∀ (s : State) (w : Word) (rest : List HostOp), s.busy = false → w ≠ 0 → w.extractLsb' 0 8 = 0 →
    step { s with inbox := hostWrite 0x00C w :: rest } = .next (errorRecorded { s with inbox := rest } 2 w)

/-- CLAMP (R152, R153): bits 0 and 1 of byte 0 cleared, bit 7 of byte 55 set, every other bit kept, so the value is a
multiple of 4 from 2^447 on; idempotent; the corner cases. -/
def Obligations.ClampCompletes : Prop :=
  (∀ (s : State) (rd rs1 : FReg), ∃ t, exec (.clamp rd rs1) s = .next t ∧
    WritesReg s t rd (enc (clampNat (val (s.readF rs1))))) ∧
  (∀ k : FieldVal, byteOf (clampScalar k) 0 = byteOf k 0 &&& 0xFC ∧ byteOf (clampScalar k) 55 = byteOf k 55 ||| 0x80 ∧
    (∀ j, 0 < j → j < 55 → byteOf (clampScalar k) j = byteOf k j) ∧
    val (clampScalar k) = clampNat (val k) ∧ val (clampScalar k) % 4 = 0 ∧
    2 ^ 447 ≤ val (clampScalar k) ∧ val (clampScalar k) ≤ 2 ^ 448 - 4 ∧
    clampScalar (clampScalar k) = clampScalar k) ∧
  clampScalar 0 = enc (2 ^ 447) ∧ clampScalar (enc (2 ^ 448 - 1)) = enc (2 ^ 448 - 4)

/-- The bit the ladder takes by shift and mask is the bit of the scalar (R151). -/
def Obligations.ScalarBits : Prop :=
  ∀ (k : FieldVal) (i : Nat), i < 448 → scalarBit k i = (val k).testBit i

/-- LADDER (R154 to R158): under every instance of P_REP, with the deferred swaps and the fixed inversion chain, it
writes the result of the plain ladder over residues on the point and the scalar as given, and nothing else. -/
def Obligations.LadderRefinesResidueLadder : Prop :=
  ∀ (s : State) (rd rs1 rs2 : FReg), ∃ t, exec (.ladder rd rs1 rs2) s = .next t ∧
    WritesReg s t rd (enc (refLadder (val (s.readF rs1)) (val (s.readF rs2)))) ∧ val (t.readF rd) < p

/-- X448 (R159): the same ladder on the scalar clamped; the scalar's register is not written unless it is the
destination. -/
def Obligations.X448RefinesResidueLadder : Prop :=
  ∀ (s : State) (rd rs1 rs2 : FReg), ∃ t, exec (.x448 rd rs1 rs2) s = .next t ∧
    WritesReg s t rd (enc (refLadder (val (s.readF rs1)) (clampNat (val (s.readF rs2))))) ∧ val (t.readF rd) < p

/-- LADDER and X448 give the same normalized result under every instance of P_REP and whatever the hidden registers
held before (R162). -/
def Obligations.LadderIsIndependentOfInstance : Prop :=
  ∀ (P Q : PRep) (h h' : Hidden) (u k : FieldVal),
    ladder P h u k = ladder Q h' u k ∧ x448 P h u k = x448 Q h' u k ∧ val (ladder P h u k) < p

/-- Corner cases of LADDER (R158): the scalar 0 gives 0, a point of residue 0 gives 0 for every scalar, and two points of
one residue give one result. -/
def Obligations.LadderCorners : Prop :=
  ∀ (P : PRep) (h : Hidden) (u u' k : FieldVal),
    ladder P h u 0 = 0 ∧ (val u % p = 0 → ladder P h u k = 0) ∧
    (val u % p = val u' % p → ladder P h u k = ladder P h u' k)

/-- Corner cases of X448 (R159): scalars that differ only in bits 0, 1 and 447 give one result; a point of residue 0, 1
or p - 1 gives 0 for every scalar; points of one residue give one result. -/
def Obligations.X448Corners : Prop :=
  ∀ (P : PRep) (h : Hidden) (u u' k k' : FieldVal),
    (val k % 2 ^ 447 / 4 = val k' % 2 ^ 447 / 4 → x448 P h u k = x448 P h u k') ∧
    (val u % p = 0 ∨ val u % p = 1 ∨ val u % p = p - 1 → x448 P h u k = 0) ∧
    (val u % p = val u' % p → x448 P h u k = x448 P h u' k)
end

