-- ==== Sys2Proof/Laws/FieldUnit.lean ====
section
/-! SUPPORT. The small facts of the field unit's functions: the prime, encodings, residues and the two representatives. -/

set_option exponentiation.threshold 1000

namespace Sys2Proof.Machine

theorem p_pos : 0 < p := by unfold p; norm_num

theorem p_lt : p < 2 ^ 448 := by unfold p; norm_num

/-- 2^448 - 1 = p + 2^224 (R100). -/
theorem p_add : p + 2 ^ 224 + 1 = 2 ^ 448 := by unfold p; norm_num

theorem val_enc {v : Nat} (h : v < 2 ^ 448) : val (enc v) = v := by
  simp only [val, enc, BitVec.toNat_ofNat]
  exact Nat.mod_eq_of_lt h

theorem enc_val (x : FieldVal) : enc (val x) = x := by
  simp [val, enc]

theorem canon_lt (v : Nat) : canon v < p := Nat.mod_lt _ p_pos

theorem val_norm (x : FieldVal) : val (norm x) = val x % p :=
  val_enc (lt_trans (canon_lt _) p_lt)

theorem residue_lt (c : RepCall) : residue c < p := by
  have h1 : (0 : Int) ≤ trueResult c % (p : Int) := Int.emod_nonneg _ (by exact_mod_cast p_pos.ne')
  have h2 : trueResult c % (p : Int) < p := Int.emod_lt_of_pos _ (by exact_mod_cast p_pos)
  unfold residue
  omega

/-- The residue, as an integer. -/
theorem residue_cast (c : RepCall) : (residue c : Int) = trueResult c % (p : Int) :=
  Int.toNat_of_nonneg (Int.emod_nonneg _ (by exact_mod_cast p_pos.ne'))

/-- A result is one of the two representatives, the second only where it is below 2^448. -/
theorem val_rep_cases (P : PRep) (c : RepCall) :
    val (rep P c) = residue c ∨ (residue c + p < 2 ^ 448 ∧ P c = true ∧ val (rep P c) = residue c + p) := by
  unfold rep
  split
  · rename_i h
    exact .inr ⟨h.1, h.2, val_enc h.1⟩
  · exact .inl (val_enc (lt_trans (residue_lt c) p_lt))

/-- The exchange, without its mask. -/
theorem cswap_eq (b : Bool) (x y : FieldVal) : cswap b x y = if b then (y, x) else (x, y) := by
  cases b
  · simp [cswap]
  · have hm : (0 - (BitVec.ofBool true).setWidth 448 : FieldVal) = BitVec.allOnes 448 := by decide
    simp only [cswap, hm, BitVec.allOnes_and, if_true]
    rw [← BitVec.xor_assoc, BitVec.xor_self, BitVec.zero_xor, BitVec.xor_comm x y, ← BitVec.xor_assoc,
      BitVec.xor_self, BitVec.zero_xor]

end Sys2Proof.Machine
end

