-- ==== Sys2Proof/Laws/State.lean ====
section
/-! SUPPORT. The small lemmas of State: what each update does to each field, and the field registers seen through the
register writes. -/

namespace Sys2Proof.Machine

/-! ### noteRead -/

@[simp] theorem State.noteRead_f (s : State) (n : FReg) :
    (s.noteRead n).f = s.f := rfl

@[simp] theorem State.noteRead_written (s : State) (n : FReg) :
    (s.noteRead n).written = s.written := rfl

@[simp] theorem State.noteRead_busy (s : State) (n : FReg) :
    (s.noteRead n).busy = s.busy := rfl

@[simp] theorem State.noteRead_done (s : State) (n : FReg) :
    (s.noteRead n).done = s.done := rfl

@[simp] theorem State.noteRead_err (s : State) (n : FReg) :
    (s.noteRead n).err = s.err := rfl

@[simp] theorem State.noteRead_errcode (s : State) (n : FReg) :
    (s.noteRead n).errcode = s.errcode := rfl

@[simp] theorem State.noteRead_errinfo (s : State) (n : FReg) :
    (s.noteRead n).errinfo = s.errinfo := rfl

@[simp] theorem State.noteRead_ie (s : State) (n : FReg) :
    (s.noteRead n).ie = s.ie := rfl

@[simp] theorem State.noteRead_lastcmd (s : State) (n : FReg) :
    (s.noteRead n).lastcmd = s.lastcmd := rfl

@[simp] theorem State.noteRead_pend (s : State) (n : FReg) :
    (s.noteRead n).pend = s.pend := rfl

@[simp] theorem State.noteRead_hidden (s : State) (n : FReg) :
    (s.noteRead n).hidden = s.hidden := rfl

@[simp] theorem State.noteRead_inbox (s : State) (n : FReg) :
    (s.noteRead n).inbox = s.inbox := rfl

@[simp] theorem State.noteRead_rdata (s : State) (n : FReg) :
    (s.noteRead n).rdata = s.rdata := rfl

@[simp] theorem State.noteRead_tick (s : State) (n : FReg) :
    (s.noteRead n).tick = s.tick := rfl

@[simp] theorem State.noteRead_runFault (s : State) (n : FReg) :
    (s.noteRead n).runFault = (s.runFault || !s.isWritten n) := rfl

/-! ### noteReads -/

@[simp] theorem State.noteReads_f (s : State) (ns : List FReg) :
    (s.noteReads ns).f = s.f := rfl

@[simp] theorem State.noteReads_written (s : State) (ns : List FReg) :
    (s.noteReads ns).written = s.written := rfl

@[simp] theorem State.noteReads_busy (s : State) (ns : List FReg) :
    (s.noteReads ns).busy = s.busy := rfl

@[simp] theorem State.noteReads_done (s : State) (ns : List FReg) :
    (s.noteReads ns).done = s.done := rfl

@[simp] theorem State.noteReads_err (s : State) (ns : List FReg) :
    (s.noteReads ns).err = s.err := rfl

@[simp] theorem State.noteReads_errcode (s : State) (ns : List FReg) :
    (s.noteReads ns).errcode = s.errcode := rfl

@[simp] theorem State.noteReads_errinfo (s : State) (ns : List FReg) :
    (s.noteReads ns).errinfo = s.errinfo := rfl

@[simp] theorem State.noteReads_ie (s : State) (ns : List FReg) :
    (s.noteReads ns).ie = s.ie := rfl

@[simp] theorem State.noteReads_lastcmd (s : State) (ns : List FReg) :
    (s.noteReads ns).lastcmd = s.lastcmd := rfl

@[simp] theorem State.noteReads_pend (s : State) (ns : List FReg) :
    (s.noteReads ns).pend = s.pend := rfl

@[simp] theorem State.noteReads_hidden (s : State) (ns : List FReg) :
    (s.noteReads ns).hidden = s.hidden := rfl

@[simp] theorem State.noteReads_inbox (s : State) (ns : List FReg) :
    (s.noteReads ns).inbox = s.inbox := rfl

@[simp] theorem State.noteReads_rdata (s : State) (ns : List FReg) :
    (s.noteReads ns).rdata = s.rdata := rfl

@[simp] theorem State.noteReads_tick (s : State) (ns : List FReg) :
    (s.noteReads ns).tick = s.tick := rfl

@[simp] theorem State.noteReads_runFault (s : State) (ns : List FReg) :
    (s.noteReads ns).runFault = (s.runFault || ns.any fun n => !s.isWritten n) := rfl

/-! ### writeF -/

@[simp] theorem State.writeF_f (s : State) (n : FReg) (v : FieldVal) :
    (s.writeF n v).f = s.f.set n.val v := rfl

@[simp] theorem State.writeF_written (s : State) (n : FReg) (v : FieldVal) :
    (s.writeF n v).written = s.written.set n.val (BitVec.allOnes 14) := rfl

@[simp] theorem State.writeF_busy (s : State) (n : FReg) (v : FieldVal) :
    (s.writeF n v).busy = s.busy := rfl

@[simp] theorem State.writeF_done (s : State) (n : FReg) (v : FieldVal) :
    (s.writeF n v).done = s.done := rfl

@[simp] theorem State.writeF_err (s : State) (n : FReg) (v : FieldVal) :
    (s.writeF n v).err = s.err := rfl

@[simp] theorem State.writeF_errcode (s : State) (n : FReg) (v : FieldVal) :
    (s.writeF n v).errcode = s.errcode := rfl

@[simp] theorem State.writeF_errinfo (s : State) (n : FReg) (v : FieldVal) :
    (s.writeF n v).errinfo = s.errinfo := rfl

@[simp] theorem State.writeF_ie (s : State) (n : FReg) (v : FieldVal) :
    (s.writeF n v).ie = s.ie := rfl

@[simp] theorem State.writeF_lastcmd (s : State) (n : FReg) (v : FieldVal) :
    (s.writeF n v).lastcmd = s.lastcmd := rfl

@[simp] theorem State.writeF_pend (s : State) (n : FReg) (v : FieldVal) :
    (s.writeF n v).pend = s.pend := rfl

@[simp] theorem State.writeF_hidden (s : State) (n : FReg) (v : FieldVal) :
    (s.writeF n v).hidden = s.hidden := rfl

@[simp] theorem State.writeF_inbox (s : State) (n : FReg) (v : FieldVal) :
    (s.writeF n v).inbox = s.inbox := rfl

@[simp] theorem State.writeF_rdata (s : State) (n : FReg) (v : FieldVal) :
    (s.writeF n v).rdata = s.rdata := rfl

@[simp] theorem State.writeF_tick (s : State) (n : FReg) (v : FieldVal) :
    (s.writeF n v).tick = s.tick := rfl

@[simp] theorem State.writeF_runFault (s : State) (n : FReg) (v : FieldVal) :
    (s.writeF n v).runFault = s.runFault := rfl

/-! ### writeFieldWord -/

@[simp] theorem State.writeFieldWord_f (s : State) (n : FReg) (j : Fin 14) (w : Word) :
    (s.writeFieldWord n j w).f = s.f.set n.val (setWord (s.readF n) j.val w) := rfl

@[simp] theorem State.writeFieldWord_written (s : State) (n : FReg) (j : Fin 14) (w : Word) :
    (s.writeFieldWord n j w).written = s.written.set n.val (s.written[n.val] ||| (1#14 <<< j.val)) := rfl

@[simp] theorem State.writeFieldWord_busy (s : State) (n : FReg) (j : Fin 14) (w : Word) :
    (s.writeFieldWord n j w).busy = s.busy := rfl

@[simp] theorem State.writeFieldWord_done (s : State) (n : FReg) (j : Fin 14) (w : Word) :
    (s.writeFieldWord n j w).done = s.done := rfl

@[simp] theorem State.writeFieldWord_err (s : State) (n : FReg) (j : Fin 14) (w : Word) :
    (s.writeFieldWord n j w).err = s.err := rfl

@[simp] theorem State.writeFieldWord_errcode (s : State) (n : FReg) (j : Fin 14) (w : Word) :
    (s.writeFieldWord n j w).errcode = s.errcode := rfl

@[simp] theorem State.writeFieldWord_errinfo (s : State) (n : FReg) (j : Fin 14) (w : Word) :
    (s.writeFieldWord n j w).errinfo = s.errinfo := rfl

@[simp] theorem State.writeFieldWord_ie (s : State) (n : FReg) (j : Fin 14) (w : Word) :
    (s.writeFieldWord n j w).ie = s.ie := rfl

@[simp] theorem State.writeFieldWord_lastcmd (s : State) (n : FReg) (j : Fin 14) (w : Word) :
    (s.writeFieldWord n j w).lastcmd = s.lastcmd := rfl

@[simp] theorem State.writeFieldWord_pend (s : State) (n : FReg) (j : Fin 14) (w : Word) :
    (s.writeFieldWord n j w).pend = s.pend := rfl

@[simp] theorem State.writeFieldWord_hidden (s : State) (n : FReg) (j : Fin 14) (w : Word) :
    (s.writeFieldWord n j w).hidden = s.hidden := rfl

@[simp] theorem State.writeFieldWord_inbox (s : State) (n : FReg) (j : Fin 14) (w : Word) :
    (s.writeFieldWord n j w).inbox = s.inbox := rfl

@[simp] theorem State.writeFieldWord_rdata (s : State) (n : FReg) (j : Fin 14) (w : Word) :
    (s.writeFieldWord n j w).rdata = s.rdata := rfl

@[simp] theorem State.writeFieldWord_tick (s : State) (n : FReg) (j : Fin 14) (w : Word) :
    (s.writeFieldWord n j w).tick = s.tick := rfl

@[simp] theorem State.writeFieldWord_runFault (s : State) (n : FReg) (j : Fin 14) (w : Word) :
    (s.writeFieldWord n j w).runFault = s.runFault := rfl

/-! ### freeAcc -/

@[simp] theorem State.freeAcc_f (s : State) :
    (s.freeAcc).f = s.f := rfl

@[simp] theorem State.freeAcc_written (s : State) :
    (s.freeAcc).written = s.written := rfl

@[simp] theorem State.freeAcc_busy (s : State) :
    (s.freeAcc).busy = s.busy := rfl

@[simp] theorem State.freeAcc_done (s : State) :
    (s.freeAcc).done = s.done := rfl

@[simp] theorem State.freeAcc_err (s : State) :
    (s.freeAcc).err = s.err := rfl

@[simp] theorem State.freeAcc_errcode (s : State) :
    (s.freeAcc).errcode = s.errcode := rfl

@[simp] theorem State.freeAcc_errinfo (s : State) :
    (s.freeAcc).errinfo = s.errinfo := rfl

@[simp] theorem State.freeAcc_ie (s : State) :
    (s.freeAcc).ie = s.ie := rfl

@[simp] theorem State.freeAcc_lastcmd (s : State) :
    (s.freeAcc).lastcmd = s.lastcmd := rfl

@[simp] theorem State.freeAcc_pend (s : State) :
    (s.freeAcc).pend = s.pend := rfl

@[simp] theorem State.freeAcc_hidden (s : State) :
    (s.freeAcc).hidden = { s.hidden with acc := (Config.freeHidden s.tick).acc } := rfl

@[simp] theorem State.freeAcc_inbox (s : State) :
    (s.freeAcc).inbox = s.inbox := rfl

@[simp] theorem State.freeAcc_rdata (s : State) :
    (s.freeAcc).rdata = s.rdata := rfl

@[simp] theorem State.freeAcc_tick (s : State) :
    (s.freeAcc).tick = s.tick + 1 := rfl

@[simp] theorem State.freeAcc_runFault (s : State) :
    (s.freeAcc).runFault = s.runFault := rfl

/-! ### freeInv -/

@[simp] theorem State.freeInv_f (s : State) :
    (s.freeInv).f = s.f := rfl

@[simp] theorem State.freeInv_written (s : State) :
    (s.freeInv).written = s.written := rfl

@[simp] theorem State.freeInv_busy (s : State) :
    (s.freeInv).busy = s.busy := rfl

@[simp] theorem State.freeInv_done (s : State) :
    (s.freeInv).done = s.done := rfl

@[simp] theorem State.freeInv_err (s : State) :
    (s.freeInv).err = s.err := rfl

@[simp] theorem State.freeInv_errcode (s : State) :
    (s.freeInv).errcode = s.errcode := rfl

@[simp] theorem State.freeInv_errinfo (s : State) :
    (s.freeInv).errinfo = s.errinfo := rfl

@[simp] theorem State.freeInv_ie (s : State) :
    (s.freeInv).ie = s.ie := rfl

@[simp] theorem State.freeInv_lastcmd (s : State) :
    (s.freeInv).lastcmd = s.lastcmd := rfl

@[simp] theorem State.freeInv_pend (s : State) :
    (s.freeInv).pend = s.pend := rfl

@[simp] theorem State.freeInv_hidden (s : State) :
    (s.freeInv).hidden = { s.hidden with acc := (Config.freeHidden s.tick).acc, finvT := (Config.freeHidden s.tick).finvT } := rfl

@[simp] theorem State.freeInv_inbox (s : State) :
    (s.freeInv).inbox = s.inbox := rfl

@[simp] theorem State.freeInv_rdata (s : State) :
    (s.freeInv).rdata = s.rdata := rfl

@[simp] theorem State.freeInv_tick (s : State) :
    (s.freeInv).tick = s.tick + 1 := rfl

@[simp] theorem State.freeInv_runFault (s : State) :
    (s.freeInv).runFault = s.runFault := rfl

/-! ### freeLadder -/

@[simp] theorem State.freeLadder_f (s : State) :
    (s.freeLadder).f = s.f := rfl

@[simp] theorem State.freeLadder_written (s : State) :
    (s.freeLadder).written = s.written := rfl

@[simp] theorem State.freeLadder_busy (s : State) :
    (s.freeLadder).busy = s.busy := rfl

@[simp] theorem State.freeLadder_done (s : State) :
    (s.freeLadder).done = s.done := rfl

@[simp] theorem State.freeLadder_err (s : State) :
    (s.freeLadder).err = s.err := rfl

@[simp] theorem State.freeLadder_errcode (s : State) :
    (s.freeLadder).errcode = s.errcode := rfl

@[simp] theorem State.freeLadder_errinfo (s : State) :
    (s.freeLadder).errinfo = s.errinfo := rfl

@[simp] theorem State.freeLadder_ie (s : State) :
    (s.freeLadder).ie = s.ie := rfl

@[simp] theorem State.freeLadder_lastcmd (s : State) :
    (s.freeLadder).lastcmd = s.lastcmd := rfl

@[simp] theorem State.freeLadder_pend (s : State) :
    (s.freeLadder).pend = s.pend := rfl

@[simp] theorem State.freeLadder_hidden (s : State) :
    (s.freeLadder).hidden = Config.freeHidden s.tick := rfl

@[simp] theorem State.freeLadder_inbox (s : State) :
    (s.freeLadder).inbox = s.inbox := rfl

@[simp] theorem State.freeLadder_rdata (s : State) :
    (s.freeLadder).rdata = s.rdata := rfl

@[simp] theorem State.freeLadder_tick (s : State) :
    (s.freeLadder).tick = s.tick + 1 := rfl

@[simp] theorem State.freeLadder_runFault (s : State) :
    (s.freeLadder).runFault = s.runFault := rfl

/-! ### writeCtrl -/

@[simp] theorem State.writeCtrl_f (s : State) (v : Word) :
    (s.writeCtrl v).f = s.f := rfl

@[simp] theorem State.writeCtrl_written (s : State) (v : Word) :
    (s.writeCtrl v).written = s.written := rfl

@[simp] theorem State.writeCtrl_busy (s : State) (v : Word) :
    (s.writeCtrl v).busy = s.busy := rfl

@[simp] theorem State.writeCtrl_done (s : State) (v : Word) :
    (s.writeCtrl v).done = s.done := rfl

@[simp] theorem State.writeCtrl_err (s : State) (v : Word) :
    (s.writeCtrl v).err = s.err := rfl

@[simp] theorem State.writeCtrl_errcode (s : State) (v : Word) :
    (s.writeCtrl v).errcode = s.errcode := rfl

@[simp] theorem State.writeCtrl_errinfo (s : State) (v : Word) :
    (s.writeCtrl v).errinfo = s.errinfo := rfl

@[simp] theorem State.writeCtrl_ie (s : State) (v : Word) :
    (s.writeCtrl v).ie = v[0] := rfl

@[simp] theorem State.writeCtrl_lastcmd (s : State) (v : Word) :
    (s.writeCtrl v).lastcmd = s.lastcmd := rfl

@[simp] theorem State.writeCtrl_pend (s : State) (v : Word) :
    (s.writeCtrl v).pend = s.pend := rfl

@[simp] theorem State.writeCtrl_hidden (s : State) (v : Word) :
    (s.writeCtrl v).hidden = s.hidden := rfl

@[simp] theorem State.writeCtrl_inbox (s : State) (v : Word) :
    (s.writeCtrl v).inbox = s.inbox := rfl

@[simp] theorem State.writeCtrl_rdata (s : State) (v : Word) :
    (s.writeCtrl v).rdata = s.rdata := rfl

@[simp] theorem State.writeCtrl_tick (s : State) (v : Word) :
    (s.writeCtrl v).tick = s.tick := rfl

@[simp] theorem State.writeCtrl_runFault (s : State) (v : Word) :
    (s.writeCtrl v).runFault = s.runFault := rfl

/-! ### writeStatus -/

@[simp] theorem State.writeStatus_f (s : State) (v : Word) :
    (s.writeStatus v).f = s.f := rfl

@[simp] theorem State.writeStatus_written (s : State) (v : Word) :
    (s.writeStatus v).written = s.written := rfl

@[simp] theorem State.writeStatus_busy (s : State) (v : Word) :
    (s.writeStatus v).busy = s.busy := rfl

@[simp] theorem State.writeStatus_done (s : State) (v : Word) :
    (s.writeStatus v).done = if v[1] then false else s.done := rfl

@[simp] theorem State.writeStatus_err (s : State) (v : Word) :
    (s.writeStatus v).err = if v[2] then false else s.err := rfl

@[simp] theorem State.writeStatus_errcode (s : State) (v : Word) :
    (s.writeStatus v).errcode = if v[2] then 0 else s.errcode := rfl

@[simp] theorem State.writeStatus_errinfo (s : State) (v : Word) :
    (s.writeStatus v).errinfo = if v[2] then 0 else s.errinfo := rfl

@[simp] theorem State.writeStatus_ie (s : State) (v : Word) :
    (s.writeStatus v).ie = s.ie := rfl

@[simp] theorem State.writeStatus_lastcmd (s : State) (v : Word) :
    (s.writeStatus v).lastcmd = s.lastcmd := rfl

@[simp] theorem State.writeStatus_pend (s : State) (v : Word) :
    (s.writeStatus v).pend = s.pend := rfl

@[simp] theorem State.writeStatus_hidden (s : State) (v : Word) :
    (s.writeStatus v).hidden = s.hidden := rfl

@[simp] theorem State.writeStatus_inbox (s : State) (v : Word) :
    (s.writeStatus v).inbox = s.inbox := rfl

@[simp] theorem State.writeStatus_rdata (s : State) (v : Word) :
    (s.writeStatus v).rdata = s.rdata := rfl

@[simp] theorem State.writeStatus_tick (s : State) (v : Word) :
    (s.writeStatus v).tick = s.tick := rfl

@[simp] theorem State.writeStatus_runFault (s : State) (v : Word) :
    (s.writeStatus v).runFault = s.runFault := rfl

/-! ### accept -/

@[simp] theorem State.accept_f (s : State) (w : Word) (i : Instr) :
    (s.accept w i).f = s.f := rfl

@[simp] theorem State.accept_written (s : State) (w : Word) (i : Instr) :
    (s.accept w i).written = s.written := rfl

@[simp] theorem State.accept_busy (s : State) (w : Word) (i : Instr) :
    (s.accept w i).busy = true := rfl

@[simp] theorem State.accept_done (s : State) (w : Word) (i : Instr) :
    (s.accept w i).done = false := rfl

@[simp] theorem State.accept_err (s : State) (w : Word) (i : Instr) :
    (s.accept w i).err = s.err := rfl

@[simp] theorem State.accept_errcode (s : State) (w : Word) (i : Instr) :
    (s.accept w i).errcode = s.errcode := rfl

@[simp] theorem State.accept_errinfo (s : State) (w : Word) (i : Instr) :
    (s.accept w i).errinfo = s.errinfo := rfl

@[simp] theorem State.accept_ie (s : State) (w : Word) (i : Instr) :
    (s.accept w i).ie = s.ie := rfl

@[simp] theorem State.accept_lastcmd (s : State) (w : Word) (i : Instr) :
    (s.accept w i).lastcmd = w := rfl

@[simp] theorem State.accept_pend (s : State) (w : Word) (i : Instr) :
    (s.accept w i).pend = some i := rfl

@[simp] theorem State.accept_hidden (s : State) (w : Word) (i : Instr) :
    (s.accept w i).hidden = s.hidden := rfl

@[simp] theorem State.accept_inbox (s : State) (w : Word) (i : Instr) :
    (s.accept w i).inbox = s.inbox := rfl

@[simp] theorem State.accept_rdata (s : State) (w : Word) (i : Instr) :
    (s.accept w i).rdata = s.rdata := rfl

@[simp] theorem State.accept_tick (s : State) (w : Word) (i : Instr) :
    (s.accept w i).tick = s.tick := rfl

@[simp] theorem State.accept_runFault (s : State) (w : Word) (i : Instr) :
    (s.accept w i).runFault = s.runFault := rfl

/-! ### complete -/

@[simp] theorem State.complete_f (s : State) :
    (s.complete).f = s.f := rfl

@[simp] theorem State.complete_written (s : State) :
    (s.complete).written = s.written := rfl

@[simp] theorem State.complete_busy (s : State) :
    (s.complete).busy = false := rfl

@[simp] theorem State.complete_done (s : State) :
    (s.complete).done = true := rfl

@[simp] theorem State.complete_err (s : State) :
    (s.complete).err = s.err := rfl

@[simp] theorem State.complete_errcode (s : State) :
    (s.complete).errcode = s.errcode := rfl

@[simp] theorem State.complete_errinfo (s : State) :
    (s.complete).errinfo = s.errinfo := rfl

@[simp] theorem State.complete_ie (s : State) :
    (s.complete).ie = s.ie := rfl

@[simp] theorem State.complete_lastcmd (s : State) :
    (s.complete).lastcmd = s.lastcmd := rfl

@[simp] theorem State.complete_pend (s : State) :
    (s.complete).pend = none := rfl

@[simp] theorem State.complete_hidden (s : State) :
    (s.complete).hidden = s.hidden := rfl

@[simp] theorem State.complete_inbox (s : State) :
    (s.complete).inbox = s.inbox := rfl

@[simp] theorem State.complete_rdata (s : State) :
    (s.complete).rdata = s.rdata := rfl

@[simp] theorem State.complete_tick (s : State) :
    (s.complete).tick = s.tick := rfl

@[simp] theorem State.complete_runFault (s : State) :
    (s.complete).runFault = s.runFault := rfl

/-! ### respond -/

@[simp] theorem State.respond_f (s : State) (w : Word) :
    (s.respond w).f = s.f := rfl

@[simp] theorem State.respond_written (s : State) (w : Word) :
    (s.respond w).written = s.written := rfl

@[simp] theorem State.respond_busy (s : State) (w : Word) :
    (s.respond w).busy = s.busy := rfl

@[simp] theorem State.respond_done (s : State) (w : Word) :
    (s.respond w).done = s.done := rfl

@[simp] theorem State.respond_err (s : State) (w : Word) :
    (s.respond w).err = s.err := rfl

@[simp] theorem State.respond_errcode (s : State) (w : Word) :
    (s.respond w).errcode = s.errcode := rfl

@[simp] theorem State.respond_errinfo (s : State) (w : Word) :
    (s.respond w).errinfo = s.errinfo := rfl

@[simp] theorem State.respond_ie (s : State) (w : Word) :
    (s.respond w).ie = s.ie := rfl

@[simp] theorem State.respond_lastcmd (s : State) (w : Word) :
    (s.respond w).lastcmd = s.lastcmd := rfl

@[simp] theorem State.respond_pend (s : State) (w : Word) :
    (s.respond w).pend = s.pend := rfl

@[simp] theorem State.respond_hidden (s : State) (w : Word) :
    (s.respond w).hidden = s.hidden := rfl

@[simp] theorem State.respond_inbox (s : State) (w : Word) :
    (s.respond w).inbox = s.inbox := rfl

@[simp] theorem State.respond_rdata (s : State) (w : Word) :
    (s.respond w).rdata = w := rfl

@[simp] theorem State.respond_tick (s : State) (w : Word) :
    (s.respond w).tick = s.tick := rfl

@[simp] theorem State.respond_runFault (s : State) (w : Word) :
    (s.respond w).runFault = s.runFault := rfl

/-! ### raiseError -/

@[simp] theorem State.raiseError_f (s : State) (c : ErrCause) (info : Word) :
    (s.raiseError c info).f = s.f := by
  unfold State.raiseError; split <;> rfl

@[simp] theorem State.raiseError_written (s : State) (c : ErrCause) (info : Word) :
    (s.raiseError c info).written = s.written := by
  unfold State.raiseError; split <;> rfl

@[simp] theorem State.raiseError_busy (s : State) (c : ErrCause) (info : Word) :
    (s.raiseError c info).busy = s.busy := by
  unfold State.raiseError; split <;> rfl

@[simp] theorem State.raiseError_done (s : State) (c : ErrCause) (info : Word) :
    (s.raiseError c info).done = s.done := by
  unfold State.raiseError; split <;> rfl

@[simp] theorem State.raiseError_err (s : State) (c : ErrCause) (info : Word) :
    (s.raiseError c info).err = true := by
  unfold State.raiseError; split <;> simp_all

@[simp] theorem State.raiseError_errcode (s : State) (c : ErrCause) (info : Word) :
    (s.raiseError c info).errcode = if s.err then s.errcode else c.code := by
  unfold State.raiseError; split <;> simp_all

@[simp] theorem State.raiseError_errinfo (s : State) (c : ErrCause) (info : Word) :
    (s.raiseError c info).errinfo = if s.err then s.errinfo else info := by
  unfold State.raiseError; split <;> simp_all

@[simp] theorem State.raiseError_ie (s : State) (c : ErrCause) (info : Word) :
    (s.raiseError c info).ie = s.ie := by
  unfold State.raiseError; split <;> rfl

@[simp] theorem State.raiseError_lastcmd (s : State) (c : ErrCause) (info : Word) :
    (s.raiseError c info).lastcmd = s.lastcmd := by
  unfold State.raiseError; split <;> rfl

@[simp] theorem State.raiseError_pend (s : State) (c : ErrCause) (info : Word) :
    (s.raiseError c info).pend = s.pend := by
  unfold State.raiseError; split <;> rfl

@[simp] theorem State.raiseError_hidden (s : State) (c : ErrCause) (info : Word) :
    (s.raiseError c info).hidden = s.hidden := by
  unfold State.raiseError; split <;> rfl

@[simp] theorem State.raiseError_inbox (s : State) (c : ErrCause) (info : Word) :
    (s.raiseError c info).inbox = s.inbox := by
  unfold State.raiseError; split <;> rfl

@[simp] theorem State.raiseError_rdata (s : State) (c : ErrCause) (info : Word) :
    (s.raiseError c info).rdata = s.rdata := by
  unfold State.raiseError; split <;> rfl

@[simp] theorem State.raiseError_tick (s : State) (c : ErrCause) (info : Word) :
    (s.raiseError c info).tick = s.tick := by
  unfold State.raiseError; split <;> rfl

@[simp] theorem State.raiseError_runFault (s : State) (c : ErrCause) (info : Word) :
    (s.raiseError c info).runFault = s.runFault := by
  unfold State.raiseError; split <;> rfl

/-! ### Registers seen through the writes -/

@[simp] theorem State.readF_writeF_self (s : State) (n : FReg) (v : FieldVal) : (s.writeF n v).readF n = v := by
  simp [State.readF]

theorem State.readF_writeF_other (s : State) {m n : FReg} (v : FieldVal) (h : m ≠ n) :
    (s.writeF n v).readF m = s.readF m := by
  have h' : n.val ≠ m.val := fun e => h (Fin.ext e.symm)
  simp [State.readF, h']

theorem State.readF_writeF (s : State) (m n : FReg) (v : FieldVal) :
    (s.writeF n v).readF m = if m = n then v else s.readF m := by
  split
  · subst m; simp
  · exact s.readF_writeF_other v ‹_›

@[simp] theorem State.isWritten_writeF_self (s : State) (n : FReg) (v : FieldVal) :
    (s.writeF n v).isWritten n = true := by
  simp [State.isWritten]

theorem State.written_writeF_other (s : State) {m n : FReg} (v : FieldVal) (h : m ≠ n) :
    (s.writeF n v).written[m.val] = s.written[m.val] := by
  have h' : n.val ≠ m.val := fun e => h (Fin.ext e.symm)
  simp [h']

@[simp] theorem State.readF_noteRead (s : State) (m n : FReg) : (s.noteRead n).readF m = s.readF m := rfl

@[simp] theorem State.isWritten_noteRead (s : State) (m n : FReg) : (s.noteRead n).isWritten m = s.isWritten m := rfl

@[simp] theorem State.readF_noteReads (s : State) (m : FReg) (ns : List FReg) :
    (s.noteReads ns).readF m = s.readF m := rfl

@[simp] theorem State.isWritten_noteReads (s : State) (m : FReg) (ns : List FReg) :
    (s.noteReads ns).isWritten m = s.isWritten m := rfl

/-- The mark after a command's sources are read. -/
theorem State.noteReads_runFault_iff (s : State) (ns : List FReg) :
    (s.noteReads ns).runFault = true ↔ s.runFault = true ∨ ∃ n ∈ ns, s.isWritten n = false := by
  simp

@[simp] theorem State.readF_accept (s : State) (m : FReg) (w : Word) (i : Instr) :
    (s.accept w i).readF m = s.readF m := rfl

@[simp] theorem State.isWritten_accept (s : State) (m : FReg) (w : Word) (i : Instr) :
    (s.accept w i).isWritten m = s.isWritten m := rfl

@[simp] theorem State.readF_complete (s : State) (m : FReg) : s.complete.readF m = s.readF m := rfl

@[simp] theorem State.isWritten_complete (s : State) (m : FReg) : s.complete.isWritten m = s.isWritten m := rfl

@[simp] theorem State.readF_freeAcc (s : State) (m : FReg) : s.freeAcc.readF m = s.readF m := rfl

@[simp] theorem State.isWritten_freeAcc (s : State) (m : FReg) : s.freeAcc.isWritten m = s.isWritten m := rfl

@[simp] theorem State.readF_freeInv (s : State) (m : FReg) : s.freeInv.readF m = s.readF m := rfl

@[simp] theorem State.isWritten_freeInv (s : State) (m : FReg) : s.freeInv.isWritten m = s.isWritten m := rfl

@[simp] theorem State.readF_freeLadder (s : State) (m : FReg) : s.freeLadder.readF m = s.readF m := rfl

@[simp] theorem State.isWritten_freeLadder (s : State) (m : FReg) : s.freeLadder.isWritten m = s.isWritten m := rfl

end Sys2Proof.Machine
end

