-- ==== Sys2Proof/Laws/Ops.lean ====
section
/-! SUPPORT. One lemma for each shared operation, saying once everything it can do. -/

namespace Sys2Proof.Machine

/-- An error is recorded exactly when none is. -/
theorem raiseError_cases (s : State) (c : ErrCause) (info : Word) :
    (s.err = true ∧ s.raiseError c info = s) ∨
    (s.err = false ∧ s.raiseError c info = { s with err := true, errcode := c.code, errinfo := info }) := by
  unfold State.raiseError
  cases h : s.err <;> simp

/-- The decoder of words rejects for two reasons only. -/
theorem decodeWord_error {w : Word} {e : DecodeError} (h : decodeWord w = .error e) :
    e = .illegalOpcode ∨ e = .reservedField := by
  unfold decodeWord at h
  split at h
  · exact .inl (by cases h; rfl)
  · split at h
    · cases h
    · exact .inr (by cases h; rfl)

/-- The four outcomes of a word written to CMD. -/
theorem presentCommand_cases (s : State) (w : Word) :
    (s.busy = true ∧ s.presentCommand w = s.raiseError .cmdWhileBusy w) ∨
    (s.busy = false ∧ ∃ i, decodeWord w = .ok i ∧
      s.presentCommand w = (s.noteReads (sourcesOf i)).accept w i) ∨
    (s.busy = false ∧ decodeWord w = .error .reservedField ∧ s.presentCommand w = s.raiseError .reservedField w) ∨
    (s.busy = false ∧ decodeWord w = .error .illegalOpcode ∧ s.presentCommand w = s.raiseError .illegalOpcode w) := by
  unfold State.presentCommand
  cases hb : s.busy
  · cases hd : decodeWord w with
    | ok i => simp
    | error e => rcases decodeWord_error hd with rfl | rfl <;> simp
  · simp

/-- A one-source command: its destination holds the function of its source, every other register is as it was. -/
theorem command1_readF (s : State) (rd rs1 m : FReg) (g : FieldVal → FieldVal) :
    (s.command1 rd rs1 g).readF m = if m = rd then g (s.readF rs1) else s.readF m := by
  simp [State.command1, State.readF_writeF]

/-- A two-source command: its destination holds the function of its sources, every other register is as it was. -/
theorem command2_readF (s : State) (rd rs1 rs2 m : FReg) (g : FieldVal → FieldVal → FieldVal) :
    (s.command2 rd rs1 rs2 g).readF m = if m = rd then g (s.readF rs1) (s.readF rs2) else s.readF m := by
  simp [State.command2, State.readF_writeF]

/-- Everything a one-source command writes. -/
theorem command1_eq (s : State) (rd rs1 : FReg) (g : FieldVal → FieldVal) :
    s.command1 rd rs1 g =
      { s with
        f := s.f.set rd.val (g (s.readF rs1))
        written := s.written.set rd.val (BitVec.allOnes 14)
        pend := none, busy := false, done := true
        runFault := s.runFault || !s.isWritten rs1 } := rfl

/-- Everything a two-source command writes. -/
theorem command2_eq (s : State) (rd rs1 rs2 : FReg) (g : FieldVal → FieldVal → FieldVal) :
    s.command2 rd rs1 rs2 g =
      { s with
        f := s.f.set rd.val (g (s.readF rs1) (s.readF rs2))
        written := s.written.set rd.val (BitVec.allOnes 14)
        pend := none, busy := false, done := true
        runFault := s.runFault || !s.isWritten rs1 || !s.isWritten rs2 } := rfl

/-- What a legal 32-bit write can do. -/
theorem windowWrite_cases (s : State) (r : WindowReg) (v info : Word) :
    (r = .status ∧ s.windowWrite r v info = s.writeStatus v) ∨
    (r = .ctrl ∧ s.windowWrite r v info = s.writeCtrl v) ∨
    (r = .cmd ∧ s.windowWrite r v info = s.presentCommand v) ∨
    (∃ n j, r = .field n j ∧ s.busy = true ∧ s.windowWrite r v info = s.raiseError .writeWhileBusy info) ∨
    (∃ n j, r = .field n j ∧ s.busy = false ∧ s.windowWrite r v info = s.writeFieldWord n j v) ∨
    ((r = .id ∨ r = .errinfo ∨ r = .padding ∨ r = .reserved) ∧ s.windowWrite r v info = s) := by
  cases r <;> simp [State.windowWrite]
  cases s.busy <;> simp

/-- A legal read changes the word read and, for an idle read of an F word, the run's mark. -/
theorem windowRead_eq (s : State) (r : WindowReg) :
    s.windowRead r = { s with rdata := s.windowWord r, runFault := (s.noteWindowRead r).runFault } := by
  cases r <;> simp only [State.windowRead, State.noteWindowRead, State.respond]
  split <;> rfl

/-- What an access inside the window can do. -/
theorem windowAccess_cases (s : State) (a : Access) :
    (a.legal = true ∧ a.kind = .read ∧ s.windowAccess a = s.windowRead (windowReg a.off)) ∨
    (a.legal = true ∧ ∃ v, a.kind = .write v ∧ s.windowAccess a = s.windowWrite (windowReg a.off) v a.info) ∨
    (a.legal = false ∧ a.kind = .read ∧ s.windowAccess a = (s.raiseError .badAccess a.info).respond 0) ∨
    (a.legal = false ∧ ∃ v, a.kind = .write v ∧ s.windowAccess a = s.raiseError .badAccess a.info) := by
  unfold State.windowAccess State.badAccess
  cases a.legal <;> cases a.kind <;> simp

/-- An access inside the window answers a next state; one outside stops. -/
theorem hostAccess_cases (s : State) (a : Access) :
    (a.off < windowSize ∧ s.hostAccess a = .next (s.windowAccess a)) ∨
    (windowSize ≤ a.off ∧ s.hostAccess a = .fault .outsideWindow) := by
  unfold State.hostAccess
  by_cases h : a.off < windowSize
  · simp [h]
  · simp [h]; omega

/-- A legal read of a word of the window. -/
theorem hostAccess_read {s : State} {off : Nat} (h : off < 4096) (h4 : off % 4 = 0) :
    s.hostAccess ⟨off, .word, .read⟩ = .next (s.windowRead (windowReg off)) := by
  simp [State.hostAccess, State.windowAccess, Access.legal, windowSize, h, h4]

/-- A legal write of a word of the window. -/
theorem hostAccess_write {s : State} {off : Nat} (v : Word) (h : off < 4096) (h4 : off % 4 = 0) :
    s.hostAccess ⟨off, .word, .write v⟩ =
      .next (s.windowWrite (windowReg off) v (⟨off, .word, .write v⟩ : Access).info) := by
  simp [State.hostAccess, State.windowAccess, Access.legal, windowSize, h, h4]

end Sys2Proof.Machine
end

