-- ==== Sys2Proof/Laws/PerInstr.lean ====
section
/-! SUPPORT. The family Encoding: what the word of each command holds, as syntax (30_encoding.md R70, R73). -/

namespace Sys2Proof.Laws.Encoding

/-- The fields of the command carry its opcode, and every field it does not use is zero. -/
def Statement (i : Instr) : Prop := i.fields.opc = i.opc ∧ i.fields.wellFormed = true

theorem nop : Statement .nop := ⟨rfl, rfl⟩

theorem fnorm (rd rs1 : FReg) : Statement (.fnorm rd rs1) := ⟨rfl, rfl⟩

theorem fcopy (rd rs1 : FReg) : Statement (.fcopy rd rs1) := ⟨rfl, rfl⟩

theorem fcswap (rs1 rs2 : FReg) (b : Bool) : Statement (.fcswap rs1 rs2 b) := ⟨rfl, rfl⟩

theorem fadd (rd rs1 rs2 : FReg) : Statement (.fadd rd rs1 rs2) := ⟨rfl, rfl⟩

theorem fsub (rd rs1 rs2 : FReg) : Statement (.fsub rd rs1 rs2) := ⟨rfl, rfl⟩

theorem fmulc (rd rs1 : FReg) : Statement (.fmulc rd rs1) := ⟨rfl, rfl⟩

theorem fmul (rd rs1 rs2 : FReg) : Statement (.fmul rd rs1 rs2) := ⟨rfl, rfl⟩

theorem fsqr (rd rs1 : FReg) : Statement (.fsqr rd rs1) := ⟨rfl, rfl⟩

theorem finv (rd rs1 : FReg) : Statement (.finv rd rs1) := ⟨rfl, rfl⟩

theorem clamp (rd rs1 : FReg) : Statement (.clamp rd rs1) := ⟨rfl, rfl⟩

theorem ladder (rd rs1 rs2 : FReg) : Statement (.ladder rd rs1 rs2) := ⟨rfl, rfl⟩

theorem x448 (rd rs1 rs2 : FReg) : Statement (.x448 rd rs1 rs2) := ⟨rfl, rfl⟩

end Sys2Proof.Laws.Encoding
end

