-- ==== Sys2Proof/Laws/Step.lean ====
section
/-! SUPPORT. What exec and a step can do, said once. -/

namespace Sys2Proof.Machine

/-- Every command's completion is a next state. -/
theorem exec_next (i : Instr) (s : State) : ∃ t, exec i s = .next t := by
  cases i <;> exact ⟨_, rfl⟩

/-- The engine's turn: the pending command completes, or nothing is pending and nothing happens. -/
theorem engineTurn_cases (s : State) :
    (∃ i, s.busy = true ∧ s.pend = some i ∧ engineTurn s = exec i s) ∨
    ((s.busy = false ∨ s.pend = none) ∧ engineTurn s = .next s) := by
  unfold engineTurn
  cases hb : s.busy <;> cases hp : s.pend <;> simp

/-- Everything a step can do, by the operation that stands next. -/
theorem step_cases (s : State) :
    (s.inbox = [] ∧ step s = engineTurn s) ∨
    (∃ rest, s.inbox = .engine :: rest ∧ step s = engineTurn { s with inbox := rest }) ∨
    (∃ a rest, s.inbox = .access a :: rest ∧ step s = ({ s with inbox := rest }).hostAccess a) ∨
    (∃ rest, s.inbox = .wait 0 :: rest ∧ s.busy = true ∧ step s = engineTurn s) ∨
    (∃ n rest, s.inbox = .wait (n + 1) :: rest ∧ s.busy = true ∧ step s = .next (s.poll (.wait n :: rest))) ∨
    (∃ n rest, s.inbox = .wait n :: rest ∧ s.busy = false ∧ step s = .next (s.poll rest)) ∨
    (∃ rest, s.inbox = .reset :: rest ∧ step s = .next ({ s with inbox := rest }).applyReset) := by
  unfold step
  cases hi : s.inbox with
  | nil => simp
  | cons op rest =>
    cases op with
    | access a => simp
    | engine => simp
    | reset => simp
    | wait n => cases hb : s.busy <;> cases n <;> simp

/-- A poll of WAIT reads STATUS and moves the operations on; nothing else changes. -/
theorem poll_eq (s : State) (rest : List HostOp) :
    s.poll rest = { s with inbox := rest, rdata := s.statusWord } := rfl

/-- A completion leaves the operations to come. -/
theorem exec_inbox {i : Instr} {s t : State} (h : exec i s = .next t) : t.inbox = s.inbox := by
  cases i <;> cases h <;> rfl

/-- A read never clears the run's mark. -/
theorem noteWindowRead_runFault (s : State) (r : WindowReg) (h : s.runFault = true) :
    (s.noteWindowRead r).runFault = true := by
  cases r <;> simp only [State.noteWindowRead] <;> try exact h
  split
  · exact h
  · simp [h]

/-- A legal read, as a step. -/
theorem step_hostRead (s : State) {off : Nat} (rest : List HostOp) (h : off < 4096) (h4 : off % 4 = 0) :
    step { s with inbox := hostRead off :: rest } = .next (({ s with inbox := rest }).windowRead (windowReg off)) :=
  hostAccess_read h h4

/-- A legal write, as a step. -/
theorem step_hostWrite (s : State) {off : Nat} (v : Word) (rest : List HostOp) (h : off < 4096) (h4 : off % 4 = 0) :
    step { s with inbox := hostWrite off v :: rest } =
      .next (({ s with inbox := rest }).windowWrite (windowReg off) v (⟨off, .word, .write v⟩ : Access).info) :=
  hostAccess_write v h h4

/-- The word at offset 0x00C is the only CMD. -/
theorem windowReg_cmd {off : Nat} (h : windowReg off = .cmd) : off = 0x00C := by
  unfold windowReg at h
  by_contra hn
  simp only [hn, if_false] at h
  repeat' split at h
  all_goals simp_all

/-- The word at offset 0x004 is the only STATUS. -/
theorem windowReg_status {off : Nat} (h : windowReg off = .status) : off = 0x004 := by
  unfold windowReg at h
  by_contra hn
  simp only [hn, if_false] at h
  repeat' split at h
  all_goals simp_all

/-- A data word of the window is at its own offset. -/
theorem windowReg_field {off : Nat} {n : FReg} {j : Fin 14} (h4 : off % 4 = 0) (h : windowReg off = .field n j) :
    off = fieldOffset n j := by
  unfold windowReg at h
  split at h; · cases h
  split at h; · cases h
  split at h; · cases h
  split at h; · cases h
  split at h; · cases h
  split at h; · cases h
  split at h
  · simp only at h
    split at h
    · injection h with h1 h2
      subst h1; subst h2
      simp only [fieldOffset, Fin.ofNat]
      omega
    · cases h
  · cases h

/-- A step that answers a next state is one of six things: a completion; an idle turn, a legal read or a poll; an access
that is not legal; a legal write; or reset. -/
theorem step_next_cases {s t : State} (h : step s = .next t) :
    (∃ i, s.busy = true ∧ s.pend = some i ∧ exec i { s with inbox := t.inbox } = .next t) ∨
    (∃ l d m, t = { s with inbox := l, rdata := d, runFault := m } ∧ (s.runFault = true → m = true)) ∨
    (∃ a rest, s.inbox = .access a :: rest ∧ a.off < windowSize ∧ a.legal = false ∧
      (t = ({ s with inbox := rest }).raiseError .badAccess a.info ∨
       t = (({ s with inbox := rest }).raiseError .badAccess a.info).respond 0)) ∨
    (∃ off v rest, s.inbox = .access ⟨off, .word, .write v⟩ :: rest ∧ off < windowSize ∧ off % 4 = 0 ∧
      t = ({ s with inbox := rest }).windowWrite (windowReg off) v (⟨off, .word, .write v⟩ : Access).info) ∨
    (∃ rest, s.inbox = .reset :: rest ∧ t = ({ s with inbox := rest }).applyReset) := by
  have turn : ∀ u : State, u = { s with inbox := u.inbox } → engineTurn u = .next t →
      (∃ i, s.busy = true ∧ s.pend = some i ∧ exec i { s with inbox := t.inbox } = .next t) ∨
      (∃ l d m, t = { s with inbox := l, rdata := d, runFault := m } ∧ (s.runFault = true → m = true)) := by
    intro u hu hx
    have hb : u.busy = s.busy := by rw [hu]
    have hp : u.pend = s.pend := by rw [hu]
    rcases engineTurn_cases u with ⟨i, h1, h2, h3⟩ | ⟨-, h3⟩
    · rw [h3] at hx
      refine .inl ⟨i, by rw [← hb]; exact h1, by rw [← hp]; exact h2, ?_⟩
      rw [exec_inbox hx, ← hu]
      exact hx
    · rw [h3] at hx
      cases hx
      refine .inr ⟨t.inbox, s.rdata, s.runFault, ?_, fun e => e⟩
      conv => lhs; rw [hu]
  rcases step_cases s with ⟨h1, h2⟩ | ⟨rest, h1, h2⟩ | ⟨a, rest, h1, h2⟩ | ⟨rest, h1, hb, h2⟩ | ⟨n, rest, h1, hb, h2⟩ |
    ⟨n, rest, h1, hb, h2⟩ | ⟨rest, h1, h2⟩
  · rcases turn s rfl (h2 ▸ h) with e | e
    · exact .inl e
    · exact .inr (.inl e)
  · rcases turn { s with inbox := rest } rfl (h2 ▸ h) with e | e
    · exact .inl e
    · exact .inr (.inl e)
  · rw [h2] at h
    rcases hostAccess_cases { s with inbox := rest } a with ⟨h3, h4⟩ | ⟨-, h4⟩
    · rw [h4] at h
      injection h with h
      rcases windowAccess_cases { s with inbox := rest } a with ⟨-, -, h6⟩ | ⟨hl, v, hk, h6⟩ | ⟨hl, -, h6⟩ | ⟨hl, v, -, h6⟩
      · rw [h6, windowRead_eq] at h
        subst h
        exact .inr (.inl ⟨_, _, _, rfl, fun e => noteWindowRead_runFault _ _ e⟩)
      · obtain ⟨off, size, kind⟩ := a
        simp only [Access.legal, Bool.and_eq_true, beq_iff_eq] at hl
        obtain ⟨rfl, hoff⟩ := hl
        simp only at hk
        subst hk
        exact .inr (.inr (.inr (.inl ⟨off, v, rest, h1, h3, hoff, by rw [← h, h6]⟩)))
      · exact .inr (.inr (.inl ⟨a, rest, h1, h3, hl, .inr (by rw [← h, h6])⟩))
      · exact .inr (.inr (.inl ⟨a, rest, h1, h3, hl, .inl (by rw [← h, h6])⟩))
    · rw [h4] at h
      cases h
  · rcases turn s rfl (h2 ▸ h) with e | e
    · exact .inl e
    · exact .inr (.inl e)
  · rw [h2, poll_eq] at h
    cases h
    exact .inr (.inl ⟨_, _, _, rfl, fun e => e⟩)
  · rw [h2, poll_eq] at h
    cases h
    exact .inr (.inl ⟨_, _, _, rfl, fun e => e⟩)
  · rw [h2] at h
    cases h
    exact .inr (.inr (.inr (.inr ⟨rest, h1, rfl⟩)))

end Sys2Proof.Machine
end

