-- ==== Sys2Proof/Machine/Asm.lean ====
section
/-! DEFINITION. The assembler syntax (30_encoding.md R79) and the pseudo-instructions (R80): a line of text to the commands
it stands for. The engine never sees this text. -/

namespace Sys2Proof.Machine

/-- The pseudo-instructions (R80). -/
inductive Pseudo where
  | fswap (a b : FReg)
  | fmov (d s : FReg)
  | fdbl (d s : FReg)
  | fdiv (d a b t : FReg)
  | faddn (d a b : FReg)
  | fsubn (d a b : FReg)
  | fmuln (d a b : FReg)
  deriving DecidableEq, Repr

/-- The expansion of a pseudo-instruction; FDIV's scratch register must differ from its dividend (R80). -/
def Pseudo.expand : Pseudo → Option (List Instr)
  | .fswap a b    => some [.fcswap a b true]
  | .fmov d s     => some [.fcopy d s]
  | .fdbl d s     => some [.fadd d s s]
  | .fdiv d a b t => if t = a then none else some [.finv t b, .fmul d a t]
  | .faddn d a b  => some [.fadd d a b, .fnorm d d]
  | .fsubn d a b  => some [.fsub d a b, .fnorm d d]
  | .fmuln d a b  => some [.fmul d a b, .fnorm d d]

/-- An operand of a line: a register, or FCSWAP's bit. -/
inductive AsmOperand where
  | reg (n : FReg)
  | bit (b : Bool)
  deriving DecidableEq, Repr

/-- The upper-case letter of a lower-case one; mnemonics and register names are case-insensitive (R79). -/
def upperChar (c : Char) : Char :=
  if 97 ≤ c.toNat ∧ c.toNat ≤ 122 then Char.ofNat (c.toNat - 32) else c

/-- The line before its comment, which runs from `;` to the end (R79). -/
def dropComment : List Char → List Char
  | []      => []
  | c :: cs => if c = ';' then [] else c :: dropComment cs

/-- Space between the parts of a line. -/
def isBlank (c : Char) : Bool := c = ' ' || c = '\t'

/-- The text without the blanks at its two ends. -/
def trimBlanks (cs : List Char) : List Char :=
  ((cs.dropWhile isBlank).reverse.dropWhile isBlank).reverse

/-- The parts between commas. -/
def splitCommas : List Char → List (List Char)
  | []      => [[]]
  | c :: cs =>
    match splitCommas cs with
    | []        => [[c]]
    | q :: rest => if c = ',' then [] :: q :: rest else (c :: q) :: rest

/-- An operand: F0 .. F15, #0 or #1 (R79), in upper case. -/
def asmOperand : List Char → Option AsmOperand
  | ['#', '0']      => some (.bit false)
  | ['#', '1']      => some (.bit true)
  | ['F', d]        => if 48 ≤ d.toNat ∧ d.toNat ≤ 57 then some (.reg (Fin.ofNat 16 (d.toNat - 48))) else none
  | ['F', '1', d]   => if 48 ≤ d.toNat ∧ d.toNat ≤ 53 then some (.reg (Fin.ofNat 16 (d.toNat - 38))) else none
  | _               => none

/-- The operands of a line, all of them or none. -/
def asmOperands : List (List Char) → Option (List AsmOperand)
  | []      => some []
  | q :: qs =>
    match asmOperand (trimBlanks q), asmOperands qs with
    | some o, some os => some (o :: os)
    | _, _            => none

/-- A two-operand command line. -/
def asmTwo (mk : FReg → FReg → Instr) : List AsmOperand → Option (List Instr)
  | [.reg d, .reg s] => some [mk d s]
  | _                => none

/-- A three-operand command line. -/
def asmThree (mk : FReg → FReg → FReg → Instr) : List AsmOperand → Option (List Instr)
  | [.reg d, .reg s1, .reg s2] => some [mk d s1 s2]
  | _                          => none

/-- A pseudo-instruction of two registers. -/
def pseudoTwo (mk : FReg → FReg → Pseudo) : List AsmOperand → Option (List Instr)
  | [.reg a, .reg b] => (mk a b).expand
  | _                => none

/-- A pseudo-instruction of three registers. -/
def pseudoThree (mk : FReg → FReg → FReg → Pseudo) : List AsmOperand → Option (List Instr)
  | [.reg a, .reg b, .reg c] => (mk a b c).expand
  | _                        => none

/-- NOP takes no operand. -/
def asmNop : List AsmOperand → Option (List Instr)
  | [] => some [.nop]
  | _  => none

/-- FCSWAP takes two registers and a bit. -/
def asmSwap : List AsmOperand → Option (List Instr)
  | [.reg a, .reg b, .bit v] => some [.fcswap a b v]
  | _                        => none

/-- FDIV takes four registers. -/
def asmDiv : List AsmOperand → Option (List Instr)
  | [.reg d, .reg a, .reg b, .reg t] => (Pseudo.fdiv d a b t).expand
  | _                                => none

/-- The mnemonics, in upper case, and how each reads its operands (R79, R80). -/
def asmTable : List (List Char × (List AsmOperand → Option (List Instr))) :=
  [ (['N','O','P'], asmNop),
    (['F','N','O','R','M'], asmTwo .fnorm),
    (['F','C','O','P','Y'], asmTwo .fcopy),
    (['F','C','S','W','A','P'], asmSwap),
    (['F','A','D','D'], asmThree .fadd),
    (['F','S','U','B'], asmThree .fsub),
    (['F','M','U','L','C'], asmTwo .fmulc),
    (['F','M','U','L'], asmThree .fmul),
    (['F','S','Q','R'], asmTwo .fsqr),
    (['F','I','N','V'], asmTwo .finv),
    (['C','L','A','M','P'], asmTwo .clamp),
    (['L','A','D','D','E','R'], asmThree .ladder),
    (['X','4','4','8'], asmThree .x448),
    (['F','S','W','A','P'], pseudoTwo .fswap),
    (['F','M','O','V'], pseudoTwo .fmov),
    (['F','D','B','L'], pseudoTwo .fdbl),
    (['F','D','I','V'], asmDiv),
    (['F','A','D','D','N'], pseudoThree .faddn),
    (['F','S','U','B','N'], pseudoThree .fsubn),
    (['F','M','U','L','N'], pseudoThree .fmuln) ]

/-- The commands of one line of text; `some []` for a line with no command on it, `none` for a line that cannot be
encoded (R79). -/
def assembleLine (line : List Char) : Option (List Instr) :=
  let cs := trimBlanks ((dropComment line).map upperChar)
  if cs = [] then some []
  else
    let mnem := cs.takeWhile fun c => !isBlank c
    let rest := trimBlanks (cs.dropWhile fun c => !isBlank c)
    match asmTable.find? fun row => row.1 == mnem with
    | none     => none
    | some row =>
      match (if rest = [] then some [] else asmOperands (splitCommas rest)) with
      | some os => row.2 os
      | none    => none

end Sys2Proof.Machine
end

