-- ==== Sys2Proof/Tests/Slice0.lean ====
section
/-! SUPPORT. The model's own tests: expected results from the spec's vectors (95_test_vectors.md) or from hand calculation by
the named rules, and one witness for the hypotheses of each statement that has any. -/

set_option exponentiation.threshold 1000

namespace Sys2Proof.Tests

-- One theorem after another: many at once would each take a thread's stack.
set_option Elab.async false

open Sys2Proof.Machine Sys2Proof.Claims

/-! ### WellFormed: one ill-formed word's fields for each check, refused (30_encoding.md R73, R74) -/

theorem test_wf_reserved_opcode : (⟨0x0A, 0, 0, 0, 0, 0⟩ : CmdFields).wellFormed = false := by decide

theorem test_wf_reserved_opcode_above : (⟨0x13, 0, 0, 0, 0, 0⟩ : CmdFields).wellFormed = false := by decide

theorem test_wf_nop_rd : (⟨0x00, 1, 0, 0, 0, 0⟩ : CmdFields).wellFormed = false := by decide

theorem test_wf_nop_rs1 : (⟨0x00, 0, 1, 0, 0, 0⟩ : CmdFields).wellFormed = false := by decide

theorem test_wf_nop_rs2 : (⟨0x00, 0, 0, 1, 0, 0⟩ : CmdFields).wellFormed = false := by decide

theorem test_wf_nop_b : (⟨0x00, 0, 0, 0, 1, 0⟩ : CmdFields).wellFormed = false := by decide

theorem test_wf_nop_rsv : (⟨0x00, 0, 0, 0, 0, 0x400⟩ : CmdFields).wellFormed = false := by decide

theorem test_wf_two_rs2 : (⟨0x01, 2, 0, 1, 0, 0⟩ : CmdFields).wellFormed = false := by decide

theorem test_wf_two_b : (⟨0x08, 2, 0, 0, 1, 0⟩ : CmdFields).wellFormed = false := by decide

theorem test_wf_two_rsv : (⟨0x10, 2, 0, 0, 0, 1⟩ : CmdFields).wellFormed = false := by decide

theorem test_wf_three_b : (⟨0x04, 0, 0, 0, 1, 0⟩ : CmdFields).wellFormed = false := by decide

theorem test_wf_three_rsv : (⟨0x12, 2, 0, 1, 0, 0x400⟩ : CmdFields).wellFormed = false := by decide

theorem test_wf_swap_rd : (⟨0x03, 1, 0, 0, 0, 0⟩ : CmdFields).wellFormed = false := by decide

theorem test_wf_swap_rsv : (⟨0x03, 0, 2, 5, 1, 1⟩ : CmdFields).wellFormed = false := by decide

/-- Each shape with every operand field it uses at its largest value. -/
theorem test_wf_accepts :
    (⟨0x00, 0, 0, 0, 0, 0⟩ : CmdFields).wellFormed = true ∧ (⟨0x09, 15, 15, 0, 0, 0⟩ : CmdFields).wellFormed = true ∧
    (⟨0x11, 15, 15, 15, 0, 0⟩ : CmdFields).wellFormed = true ∧
    (⟨0x03, 0, 15, 15, 1, 0⟩ : CmdFields).wellFormed = true := by decide

/-! ### Decode: words written out from R70 as RSV, B, RS2, RS1, RD, OPC -/

theorem test_decode_nop : decodeWord 0b00000000000_0_0000_0000_0000_00000000 = .ok .nop := by decide

theorem test_decode_fnorm : decodeWord 0b00000000000_0_0000_0001_0010_00000001 = .ok (.fnorm 2 1) := by decide

theorem test_decode_fcopy : decodeWord 0b00000000000_0_0000_0000_0100_00000010 = .ok (.fcopy 4 0) := by decide

theorem test_decode_fcswap : decodeWord 0b00000000000_1_0101_0010_0000_00000011 = .ok (.fcswap 2 5 true) := by decide

theorem test_decode_fcswap_zero : decodeWord 0b00000000000_0_0101_0010_0000_00000011 = .ok (.fcswap 2 5 false) := by
  decide

theorem test_decode_fadd : decodeWord 0b00000000000_0_0001_0000_0011_00000100 = .ok (.fadd 3 0 1) := by decide

theorem test_decode_fadd_top : decodeWord 0b00000000000_0_1111_1111_1111_00000100 = .ok (.fadd 15 15 15) := by decide

theorem test_decode_fsub : decodeWord 0b00000000000_0_0001_0000_0010_00000101 = .ok (.fsub 2 0 1) := by decide

theorem test_decode_fmulc : decodeWord 0b00000000000_0_0000_0000_0001_00000110 = .ok (.fmulc 1 0) := by decide

theorem test_decode_fmul : decodeWord 0b00000000000_0_0001_0000_0010_00000111 = .ok (.fmul 2 0 1) := by decide

theorem test_decode_fsqr : decodeWord 0b00000000000_0_0000_0000_0001_00001000 = .ok (.fsqr 1 0) := by decide

theorem test_decode_finv : decodeWord 0b00000000000_0_0000_0000_0001_00001001 = .ok (.finv 1 0) := by decide

theorem test_decode_clamp : decodeWord 0b00000000000_0_0000_0001_0010_00010000 = .ok (.clamp 2 1) := by decide

theorem test_decode_ladder : decodeWord 0b00000000000_0_0001_0000_0010_00010001 = .ok (.ladder 2 0 1) := by decide

theorem test_decode_x448 : decodeWord 0b00000000000_0_1101_1110_1111_00010010 = .ok (.x448 15 14 13) := by decide

/-- Reserved opcodes on each side of the mapped ones (R74). -/
theorem test_decode_illegal :
    decodeWord 0x0000000A = .error .illegalOpcode ∧ decodeWord 0x0000000F = .error .illegalOpcode ∧
    decodeWord 0x00000013 = .error .illegalOpcode ∧ decodeWord 0x000000FF = .error .illegalOpcode := by decide

/-- Vectors V90 to V94. -/
theorem test_decode_reserved_field :
    decodeWord 0x00100004 = .error .reservedField ∧ decodeWord 0x00000103 = .error .reservedField ∧
    decodeWord 0x00200001 = .error .reservedField ∧ decodeWord 0x00010001 = .error .reservedField ∧
    decodeWord 0x00000100 = .error .reservedField := by decide

/-- The least significant byte comes first (20_memory.md R55); no other number of bytes is a command. -/
theorem test_decode_bytes :
    decodeBytes [0x04, 0x03, 0x01, 0x00] = .ok (.fadd 3 0 1) ∧ decodeBytes [0x04, 0x03, 0x01] = .error .wrongLength ∧
    decodeBytes [] = .error .wrongLength := by decide

theorem test_decode_table_word :
    decodeTableWord 32 0x00152003 = some (.fcswap 2 5 true) ∧ decodeTableWord 32 0x0A = none := by decide

theorem test_encode_worked : encode (.x448 2 0 1) = 0x00010212 ∧ encode (.fcswap 2 5 true) = 0x00152003 := by decide

/-! ### The field unit, vectors of 95_test_vectors.md under the default instance -/

/-- V10, V11, V12. -/
theorem test_norm : norm (enc p) = 0 ∧ norm (enc (2 ^ 448 - 1)) = enc (2 ^ 224) ∧ norm (enc (p + 1)) = 1 := by
  decide +kernel

/-- V11 and V13 by the two-pass byte method. -/
theorem test_norm_bytes :
    normBytes (enc (2 ^ 448 - 1)) = enc (2 ^ 224) ∧ normBytes (enc (p - 1)) = enc (p - 1) := by decide +kernel

/-- V17, V18. -/
theorem test_cswap : cswap true 1 2 = (2, 1) ∧ cswap false 1 2 = (1, 2) := by decide +kernel

/-- V20, V21, V22, V24. -/
theorem test_add :
    add foldRep 2 3 = 5 ∧ add foldRep (enc (p - 1)) 1 = enc p ∧
    add foldRep (enc (2 ^ 448 - 1)) (enc (2 ^ 448 - 1)) = enc (2 ^ 225) ∧
    add foldRep (enc (2 ^ 224)) (enc p) = enc (2 ^ 448 - 1) := by decide +kernel

/-- V26, V28, V29, V31. -/
theorem test_sub :
    sub foldRep 3 5 = enc (p - 2) ∧ sub foldRep 1 0 = enc (p + 1) ∧ sub foldRep 5 5 = enc p ∧
    sub foldRep 0 (enc (2 ^ 448 - 1)) = enc (p - 2 ^ 224) := by decide +kernel

/-- V34 to V36. -/
theorem test_mulc :
    mulc foldRep 1 = enc 39081 ∧ mulc foldRep (enc (p - 1)) = enc (p - 39081) ∧
    mulc foldRep (enc (2 ^ 448 - 1)) = enc (39081 * 2 ^ 224) := by decide +kernel

/-- V38 to V41. -/
theorem test_mul :
    mul foldRep 2 3 = 6 ∧ mul foldRep (enc (p - 1)) (enc (p - 1)) = enc (p + 1) ∧
    mul foldRep (enc (2 ^ 448 - 1)) (enc (2 ^ 448 - 1)) = enc (2 ^ 224 + 1) ∧ mul foldRep (enc p) 5 = enc p := by
  decide +kernel

/-- V48, V49. -/
theorem test_sqr :
    sqr foldRep (enc (2 ^ 448 - 1)) = enc (2 ^ 224 + 1) ∧ sqr foldRep (enc (p - 1)) = 1 := by decide +kernel

set_option maxRecDepth 100000 in
/-- V42. -/
theorem test_inv_two : inv foldRep 2 = enc (2 ^ 447 - 2 ^ 223) := by decide +kernel

set_option maxRecDepth 100000 in
/-- V43, V44. -/
theorem test_inv_zero : inv foldRep 0 = 0 ∧ inv foldRep (enc p) = 0 := by decide +kernel

/-! ### The controller -/

/-- Bit 447 is bit 7 of byte 55, bit 8 is bit 0 of byte 1 (41_scalarmult.md R151). -/
theorem test_scalar_bit :
    scalarBit (enc (2 ^ 447)) 447 = true ∧ scalarBit (enc (2 ^ 447)) 446 = false ∧ scalarBit 256 8 = true := by
  decide +kernel

/-- V68, V69. -/
theorem test_clamp :
    clampScalar 0 = enc (2 ^ 447) ∧ clampScalar (enc (2 ^ 448 - 1)) = enc (2 ^ 448 - 4) := by decide +kernel

/-- STEP on (5, 1) as program P5 computes it: X2 = AA CC = 576, AA = 36, CC = 16. -/
theorem test_ladder_step :
    let h := ladderStep foldRep { Hidden.zero with x1 := 5, x2 := 5, z2 := 1, x3 := 1, z3 := 0 }
    h.aa = 36 ∧ h.cc = 16 ∧ h.x2 = 576 ∧ canon (val h.e) = 20 ∧ canon (val h.z2) = 15633120 := by decide +kernel

/-- STEP from (1, 0) and (5, 1) keeps the first point: (1, 0) doubled is (1, 0), by hand from R156. -/
theorem test_ladder_step_infinity :
    let h := ladderStep foldRep (ladderInit 5 0 Hidden.zero)
    h.x2 = 1 ∧ canon (val h.z2) = 0 := by decide +kernel

/-- The deferred swap: a set bit exchanges the points before STEP and leaves the flag set (R155). -/
theorem test_ladder_iterate :
    let h := ladderIterate foldRep 0 (ladderInit 5 1 Hidden.zero)
    h.x2 = 576 ∧ h.swap = true ∧ h.i = 0 := by decide +kernel

/-! ### One step -/

/-- F0 = 2 and F1 = 3 loaded, the engine idle. -/
def loaded : State := (State.reset.writeF 0 2).writeF 1 3

/-- `loaded` with the command in progress. -/
def busyWith (i : Instr) : State := loaded.accept (encode i) i

/-- What a test reads of an outcome. -/
def look {α : Type} (g : State → α) : Host.Outcome State Fault Refusal → Option α
  | .next t    => some (g t)
  | .fault _   => none
  | .refused _ => none

/-- STATUS and ERRINFO after one operation on a state. -/
def statusAfter (s : State) (op : HostOp) : Option (Word × Word) :=
  look (fun t => (t.statusWord, t.errinfo)) (step { s with inbox := [op] })

/-- V88, V90. -/
theorem test_illegal_command :
    statusAfter State.reset (hostWrite 0x00C 0x0A) = some (0x14, 0x0A) ∧
    statusAfter State.reset (hostWrite 0x00C 0x00100004) = some (0x24, 0x00100004) := by decide +kernel

/-- V95, V96. -/
theorem test_busy_errors :
    statusAfter (busyWith .nop) (hostWrite 0x00C 0) = some (0x35, 0) ∧
    statusAfter (busyWith .nop) (hostWrite 0x18C 7) = some (0x45, 0x0005018C) := by decide +kernel

/-- V88 and V95: a rejected word is not stored in LASTCMD; an accepted one is. -/
theorem test_lastcmd :
    look (·.lastcmd) (step { loaded with inbox := [hostWrite 0x00C 0x00010304] }) = some 0x00010304 ∧
    look (·.lastcmd) (step { loaded with inbox := [hostWrite 0x00C 0x0A] }) = some 0 ∧
    look (·.lastcmd) (step { busyWith (.fcopy 4 0) with inbox := [hostWrite 0x00C 0] }) = some 0x00000402 := by
  decide +kernel

/-- V97. -/
theorem test_busy_read :
    statusAfter (busyWith .nop) (hostRead 0x18C) = some (1, 0) ∧
    look (·.rdata) (step { busyWith .nop with inbox := [hostRead 0x100] }) = some 0 := by decide +kernel

/-- V98 to V101. -/
theorem test_bad_access :
    statusAfter State.reset (.access ⟨0x101, .byte, .write 0xAB⟩) = some (0x54, 0x00010101) ∧
    statusAfter State.reset (.access ⟨0x004, .half, .read⟩) = some (0x54, 0x00020004) ∧
    statusAfter State.reset (.access ⟨0x006, .word, .read⟩) = some (0x54, 0x00040006) ∧
    statusAfter (busyWith .nop) (.access ⟨0x00C, .byte, .write 0⟩) = some (0x55, 0x0001000C) := by decide +kernel

/-- V102, V103: a recorded error is not replaced, and a STATUS write clears it. -/
theorem test_first_error_wins :
    statusAfter (State.reset.raiseError .illegalOpcode 0x0A) (hostWrite 0x00C 0x00100004) = some (0x14, 0x0A) ∧
    statusAfter (State.reset.raiseError .illegalOpcode 0x0A) (hostWrite 0x004 6) = some (0, 0) := by decide +kernel

/-- V104, V106. -/
theorem test_read_id_and_reserved :
    look (·.rdata) (step { State.reset with inbox := [hostRead 0x000] }) = some 0x38343458 ∧
    look (·.rdata) (step { loaded with inbox := [hostRead 0x138] }) = some 0 ∧
    look (·.rdata) (step { loaded with inbox := [hostRead 0x700] }) = some 0 := by decide +kernel

/-- V110, V112: F0 = p has 0xFE in byte 28. -/
theorem test_word_packing :
    look (·.rdata) (step { loaded.writeF 0 (enc p) with inbox := [hostRead 0x11C] }) = some 0xFFFFFFFE ∧
    look (·.rdata) (step { loaded.writeF 1 5 with inbox := [hostRead 0x140] }) = some 5 := by decide +kernel

/-- One word written leaves the register unwritten until all fourteen are (20_memory.md R52). -/
theorem test_store_word :
    look (fun t => (t.readF 15, t.isWritten 15)) (step { State.reset with inbox := [hostWrite 0x4C4 0x80000001] }) =
      some (enc (0x80000001 * 2 ^ 32), false) := by decide +kernel

/-- V71: a NOP shows BUSY, then DONE. -/
theorem test_nop :
    statusAfter State.reset (hostWrite 0x00C 0) = some (1, 0) ∧
    look (·.statusWord) (step (busyWith .nop)) = some 2 := by decide +kernel

/-- V108: IRQ follows DONE while IE is set. -/
theorem test_irq :
    look (·.irq) (step { busyWith .nop with ie := true }) = some true ∧
    look (·.irq) (step { loaded.complete with ie := true, inbox := [hostWrite 0x004 2] }) = some false := by
  decide +kernel

/-- FCOPY writes one register and reads another. -/
theorem test_fcopy : look (fun t => (t.readF 4, t.readF 0)) (step (busyWith (.fcopy 4 0))) = some (2, 2) := by
  decide +kernel

/-- FCSWAP exchanges its registers, and with one register leaves it. -/
theorem test_fcswap :
    look (fun t => (t.readF 0, t.readF 1)) (step (busyWith (.fcswap 0 1 true))) = some (3, 2) ∧
    look (fun t => t.readF 1) (step (busyWith (.fcswap 1 1 true))) = some 3 := by decide +kernel

/-- CLAMP of 3 into its own register: 2^447, by hand from R152. -/
theorem test_clamp_in_place : look (fun t => t.readF 1) (step (busyWith (.clamp 1 1))) = some (enc (2 ^ 447)) := by
  decide +kernel

/-- A source not written marks the run; a written one does not (10_state.md R23). -/
theorem test_run_fault :
    look (·.runFault) (step (busyWith (.fnorm 2 3))) = some true ∧
    look (·.runFault) (step (busyWith (.fnorm 2 1))) = some false := by decide +kernel

/-- The mark is set at acceptance, and stays if reset abandons the command (70_reset_and_hazards.md R235, R231). -/
theorem test_run_fault_at_acceptance :
    look (·.runFault) (step { loaded with inbox := [hostWrite 0x00C 0x00003201] }) = some true ∧
    look (·.runFault) (step { loaded with inbox := [hostWrite 0x00C 0x00010304] }) = some false ∧
    look (·.runFault) (step { (loaded.noteReads [3]).accept 0x00003201 (.fnorm 2 3) with inbox := [.reset] }) =
      some true := by decide +kernel

/-- Reset abandons the command in progress and DONE is not set (70_reset_and_hazards.md R231). -/
theorem test_reset_abandons :
    look (fun t => (t.statusWord, t.pend, t.lastcmd)) (step { busyWith (.fcopy 4 0) with inbox := [.reset] }) =
      some (0, none, 0) := by decide +kernel

/-- A placed word runs at once. -/
theorem test_with_fetch_word :
    look (·.statusWord) (step (State.reset.withFetchWord 32 0x00000402)) = some 2 ∧
    (State.reset.withFetchWord 32 0x00000402).pend = some (.fcopy 4 0) := by decide +kernel

/-! ### The assembler (30_encoding.md R79, R80) and the hexadecimal writing (00_scope.md R11) -/

theorem test_asm_case_and_comment :
    assembleLine "  fadd F3, f0,F1  ; sum".toList = some [.fadd 3 0 1] := by decide +kernel

theorem test_asm_fcswap : assembleLine "FCSWAP F2, F15, #1".toList = some [.fcswap 2 15 true] := by decide +kernel

theorem test_asm_pseudo :
    assembleLine "FMULN F4, F3, F2".toList = some [.fmul 4 3 2, .fnorm 4 4] ∧
    assembleLine "FDIV F1, F2, F3, F4".toList = some [.finv 4 3, .fmul 1 2 4] := by decide +kernel

theorem test_asm_rejects :
    assembleLine "FADD F3, F0".toList = none ∧ assembleLine "FADD F3, F0, F16".toList = none ∧
    assembleLine "FDIV F1, F2, F3, F2".toList = none := by decide +kernel

theorem test_hex_field :
    hexField ("a998".toList ++ List.replicate 108 '0') = some (enc 39081) ∧ hexField "a998".toList = none := by
  decide +kernel

/-! ### Witnesses: for each statement with hypotheses, a state and operands that meet them together -/

/-- `loaded` with an error recorded, DONE and IE set. -/
def faulted : State := { (loaded.complete.writeCtrl 1).raiseError .illegalOpcode 0x0A with inbox := [hostRead 0x004] }

/-- A command in progress, with an access, a wait and a reset to come. -/
def busyFull : State := { busyWith (.fadd 3 0 1) with inbox := [hostRead 0x100, .wait 2, .engine, .reset] }

theorem reset_inv : State.reset.Inv where
  busy_pend := rfl
  pend_lastcmd := by intro i h; cases h
  lastcmd_legal := ⟨.nop, by decide⟩
  busy_done := by intro h; cases h
  no_err := fun _ => ⟨rfl, rfl⟩
  err_record := by intro h; cases h

theorem busy_inv : busyFull.Inv where
  busy_pend := rfl
  pend_lastcmd := by intro i h; cases h; decide
  lastcmd_legal := ⟨.fadd 3 0 1, by decide⟩
  busy_done := fun _ => rfl
  no_err := fun _ => ⟨rfl, rfl⟩
  err_record := by intro h; cases h

theorem faulted_inv : faulted.Inv where
  busy_pend := rfl
  pend_lastcmd := by intro i h; cases h
  lastcmd_legal := ⟨.nop, by decide⟩
  busy_done := by intro h; cases h
  no_err := by intro h; cases h
  err_record := fun _ => .inl ⟨rfl, by decide⟩

/-- Each of the five records of an error is possible, as V88, V90, V95, V96 and V101 leave it. -/
theorem witness_err_records :
    errRecordOk 1 0x0A ∧ errRecordOk 2 0x00100004 ∧ errRecordOk 3 0 ∧ errRecordOk 4 0x0005018C ∧
    errRecordOk 5 0x0001000C :=
  ⟨.inl ⟨rfl, by decide⟩, .inr (.inl ⟨rfl, by decide⟩), .inr (.inr (.inl rfl)),
    .inr (.inr (.inr (.inl ⟨rfl, 2, 3, 7, by decide⟩))),
    .inr (.inr (.inr (.inr ⟨rfl, ⟨0x00C, .byte, .write 0⟩, by decide, by decide, by decide⟩)))⟩

theorem witness_EncodeOfDecode :
    decodeWord 0x000FFF04 = .ok (.fadd 15 15 15) ∧ decodeWord 0 = .ok .nop := by decide

theorem witness_StepRunsPendingCommand :
    (busyWith (.fadd 3 0 1)).busy = true ∧ (busyWith (.fadd 3 0 1)).pend = some (.fadd 3 0 1) := ⟨rfl, rfl⟩

theorem witness_PlacedWordRunsDecodedInstruction :
    0x000DEF12 < 2 ^ 32 ∧ decodeTableWord 32 0x000DEF12 = some (.x448 15 14 13) := by decide

theorem witness_RaceAdmitsBothOrders :
    (busyWith .nop).busy = true ∧ (busyWith .nop).pend = some .nop ∧ decodeWord 0x00010304 = .ok (.fadd 3 0 1) ∧
    exec .nop { busyWith .nop with inbox := hostWrite 0x00C 0x00010304 :: [] } =
      .next ({ busyWith .nop with inbox := [hostWrite 0x00C 0x00010304] }).complete :=
  ⟨rfl, rfl, by decide, rfl⟩

theorem witness_NoCommandFails : State.reset.readF 3 = 0 := by decide +kernel

theorem witness_AcceptedCommandCompletes : busyFull.Inv ∧ busyFull.busy = true ∧ InWindow busyFull.inbox := by
  refine ⟨busy_inv, rfl, ?_⟩
  intro a h
  simp only [busyFull, hostRead, List.mem_cons, HostOp.access.injEq, reduceCtorEq, List.not_mem_nil, or_false] at h
  subst h
  decide

/-- The clause with no reset: an access at the window's last word, a rejected command, a wait and a token to come. -/
def busyQuiet : State :=
  { busyWith (.fadd 3 0 1) with inbox := [hostRead 0xFFC, hostWrite 0x00C 0, .wait 2, .engine] }

theorem witness_AcceptedCommandCompletes_no_reset :
    busyQuiet.busy = true ∧ busyQuiet.pend = some (.fadd 3 0 1) ∧ InWindow busyQuiet.inbox ∧
    HostOp.reset ∉ busyQuiet.inbox := by
  refine ⟨rfl, rfl, ?_, by decide⟩
  intro a h
  simp only [busyQuiet, hostRead, hostWrite, List.mem_cons, HostOp.access.injEq, reduceCtorEq, List.not_mem_nil,
    or_false] at h
  rcases h with rfl | rfl <;> decide

theorem witness_WaitEndsIdle : busyFull.busy = true ∧ busyFull.pend = some (.fadd 3 0 1) := ⟨rfl, rfl⟩

/-- A next state from a busy state, from an idle one with an error, and from reset. -/
theorem witness_StepKeepsInv :
    (busyFull.Inv ∧ ∃ t, step busyFull = .next t) ∧ (faulted.Inv ∧ ∃ t, step faulted = .next t) ∧
    State.reset.Inv ∧ ∃ t, step State.reset = .next t :=
  ⟨⟨busy_inv, _, rfl⟩, ⟨faulted_inv, _, rfl⟩, reset_inv, _, rfl⟩

/-- The edges of the three ranges of R51 and R53: the value meets its own clause and neither of the others. -/
theorem witness_WindowMap :
    (∀ off ∈ [0x014, 0x0FC, 0x500, 0xFFC], off < 4096 ∧ off % 4 = 0 ∧ ((0x014 ≤ off ∧ off < 0x100) ∨ 0x500 ≤ off)) ∧
    (∀ off ∈ [0x138, 0x13C, 0x4F8, 0x4FC], off < 4096 ∧ off % 4 = 0 ∧ 0x100 ≤ off ∧ off < 0x500 ∧ 56 ≤ off % 64) ∧
    (∀ off ∈ [0x100, 0x134, 0x140, 0x4C0, 0x4F4], off < 4096 ∧ off % 4 = 0 ∧ 0x100 ≤ off ∧ off < 0x500 ∧ off % 64 < 56) := by
  decide

/-- What stands at those edges. -/
theorem test_window_edges :
    windowReg 0x0FC = .reserved ∧ windowReg 0x100 = .field 0 0 ∧ windowReg 0x134 = .field 0 13 ∧
    windowReg 0x138 = .padding ∧ windowReg 0x4F4 = .field 15 13 ∧ windowReg 0x4FC = .padding ∧
    windowReg 0x500 = .reserved ∧ windowReg 0xFFC = .reserved := by decide

theorem witness_StatusReadAndWrite : (0x4 : Word)[2] = true ∧ (0x2 : Word)[2] = false := by decide

theorem witness_ReservedAndPaddingAreInert :
    (∀ off ∈ [0x014, 0x0FC, 0x500, 0xFFC, 0x138, 0x13C, 0x4F8, 0x4FC], off % 4 = 0 ∧
      ((0x014 ≤ off ∧ off < 0x100) ∨ (0x500 ≤ off ∧ off < 0x1000) ∨ (0x100 ≤ off ∧ off < 0x500 ∧ 56 ≤ off % 64))) ∧
    ∀ off ∈ [0x000, 0x010], off = 0x000 ∨ off = 0x010 := by decide

theorem witness_FieldWordLoadAndStore : loaded.busy = false ∧ loaded.isWritten 0 = true ∧ loaded.isWritten 2 = false := by
  decide +kernel

theorem witness_LoadThenStoreReturnsTheValue : loaded.busy = false := rfl

/-- Offsets that are no data word while busy: a control register, the reserved range, padding, and CMD itself. -/
theorem witness_BusyWindow :
    busyFull.busy = true ∧
    ∀ off ∈ [0x000, 0x004, 0x008, 0x00C, 0x010, 0x014, 0x138, 0xFFC],
      off < 4096 ∧ off % 4 = 0 ∧ ∀ m k, windowReg off ≠ .field m k := by decide

/-- A byte access, a half access, an access of another size, and a misaligned word access at the window's top. -/
theorem witness_BadAccessComesFirst :
    ∀ a ∈ [(⟨0x100, .byte, .read⟩ : Access), ⟨0x004, .half, .write 1⟩, ⟨0x000, .other, .read⟩, ⟨0xFFF, .word, .write 0⟩],
      a.off < 4096 ∧ (a.size ≠ .word ∨ a.off % 4 ≠ 0) := by decide

theorem witness_OutsideWindowStops : 4096 ≤ (⟨4096, .word, .read⟩ : Access).off := by decide

theorem witness_ReadsHaveNoSideEffect : (0x000 < 4096 ∧ 0x000 % 4 = 0) ∧ 0xFFC < 4096 ∧ 0xFFC % 4 = 0 := by decide

theorem witness_FirstErrorWins : (∃ t, step faulted = .next t) ∧ faulted.err = true := ⟨⟨_, rfl⟩, rfl⟩

theorem witness_ErrorsArePrecise :
    ∃ t, step { loaded with inbox := [hostWrite 0x00C 0x0A] } = .next t ∧ loaded.err = false ∧ t.err = true :=
  ⟨_, rfl, rfl, by decide +kernel⟩

/-- BUSY set by an acceptance, and cleared by a completion. -/
theorem witness_BusyChangesOnly :
    (∃ t, step { loaded with inbox := [hostWrite 0x00C 0x00010304] } = .next t ∧ loaded.busy = false ∧ t.busy = true) ∧
    ∃ t, step (busyWith .nop) = .next t ∧ (busyWith .nop).busy = true ∧ t.busy = false :=
  ⟨⟨_, rfl, rfl, by decide +kernel⟩, _, rfl, rfl, rfl⟩

/-- A word accepted, and three rejected: of BusyChangesOnly, DoneChangesOnly and CmdReadReturnsLastAccepted. -/
theorem witness_acceptance :
    loaded.busy = false ∧ decodeWord 0x00010304 = .ok (.fadd 3 0 1) ∧ decodeWord 0x0A = .error .illegalOpcode ∧
    decodeWord 0x00000100 = .error .reservedField ∧ busyFull.busy = true := ⟨rfl, by decide, by decide, by decide, rfl⟩

/-- DONE set by a completion, and cleared by a STATUS write. -/
theorem witness_DoneChangesOnly :
    (∃ t, step (busyWith .nop) = .next t ∧ (busyWith .nop).done = false ∧ t.done = true) ∧
    ∃ t, step { loaded.complete with inbox := [hostWrite 0x004 2] } = .next t ∧ loaded.complete.done = true ∧
      t.done = false :=
  ⟨⟨_, rfl, rfl, rfl⟩, _, rfl, rfl, by decide +kernel⟩

theorem witness_CmdReadReturnsLastAccepted :
    ∃ t, step { loaded with inbox := [hostWrite 0x00C 0x00010304] } = .next t ∧ t.lastcmd ≠ loaded.lastcmd :=
  ⟨_, rfl, by decide +kernel⟩

theorem witness_FieldRegistersChangeOnly :
    ∃ t, step (busyWith (.fcopy 4 0)) = .next t ∧ t.f ≠ (busyWith (.fcopy 4 0)).f := ⟨_, rfl, by decide +kernel⟩

theorem witness_OperandsStandUntilCompletion :
    busyFull.busy = true ∧
    ∀ a ∈ [(⟨0x100, .word, .write 9⟩ : Access), ⟨0x00C, .word, .write 0⟩, ⟨0xFFF, .byte, .read⟩], a.off < 4096 := by
  decide

theorem witness_CtrlReadAndWrite : loaded.ie = false ∧ (loaded.writeCtrl 1).ie = true := ⟨rfl, by decide +kernel⟩

theorem witness_IrqLevel : (0x6 : Word)[1] = true ∧ (0x6 : Word)[2] = true ∧ (0xFFFFFFFE : Word)[0] = false := by decide

/-- Two states with different data in F0 and the same control registers. -/
theorem witness_ControlIsIndependentOfData :
    SameControl (busyWith .nop) ((busyWith .nop).writeF 0 7) ∧ (busyWith .nop).f ≠ ((busyWith .nop).writeF 0 7).f :=
  ⟨⟨rfl, rfl, rfl, rfl, rfl, rfl, rfl, rfl, rfl⟩, by decide +kernel⟩

/-- Two states that differ in the hidden registers and nowhere else. -/
theorem witness_HiddenRegistersAreUnobservable :
    SameVisible (busyWith .nop) { busyWith .nop with hidden := { Hidden.zero with x1 := 1 }, tick := 5 } ∧
    ({ Hidden.zero with x1 := 1 } : Hidden) ≠ Hidden.zero := ⟨rfl, by decide⟩

theorem witness_UnwrittenReadMarksTheRun :
    loaded.isWritten 2 = false ∧ loaded.busy = false ∧
    decodeWord 0x00003201 = .ok (.fnorm 2 3) ∧ loaded.isWritten 3 = false ∧
    ∃ t, step { loaded with inbox := [hostRead (fieldOffset 2 0)] } = .next t ∧ t.runFault = true := by
  refine ⟨by decide +kernel, rfl, by decide, by decide +kernel, _, rfl, by decide +kernel⟩

/-- Both kinds of lawful function: the residue always, and the second representative where there is one. -/
theorem witness_PRepIsExactlyTheLaw :
    (∀ c, (val (rep (fun _ => false) c) : Int) % p = trueResult c % p) ∧
    ∀ c, (val (rep (fun _ => true) c) : Int) % p = trueResult c % p := by
  have law : ∀ (P : PRep) (c : RepCall), (val (rep P c) : Int) % p = trueResult c % p := by
    intro P c
    rcases val_rep_cases P c with h | ⟨-, -, h⟩ <;> rw [h] <;> push_cast <;> rw [residue_cast] <;> simp
  exact ⟨law _, law _⟩

/-- The largest residue with two representatives is 2^224, and 2^224 + 1 has one (R100). -/
theorem witness_PRep_residues :
    trueResult (.fadd (enc (2 ^ 224)) 0) % p = 2 ^ 224 ∧ trueResult (.fadd (enc (2 ^ 224)) 1) % p = 2 ^ 224 + 1 := by
  decide +kernel

/-- The smallest and the largest integer of the fold's range. -/
theorem witness_FoldIsTheDefaultInstance : 0 < 2 ^ 464 ∧ 2 ^ 464 - 1 < 2 ^ 464 := by norm_num

theorem witness_FmulCompletes :
    2 ^ 896 - 1 < 2 ^ 896 ∧ val (enc p) % p = 0 ∧ val 0 % p = 0 := by
  refine ⟨by norm_num, by decide +kernel, by decide +kernel⟩

theorem witness_FinvCompletes : val 0 % p = 0 ∧ val (enc p) % p = 0 := by decide +kernel

theorem witness_AliasingDoesNotMatter :
    loaded.readF 0 = (loaded.writeF 5 2).readF 5 ∧ loaded.readF 1 = (loaded.writeF 5 3).readF 5 := by decide +kernel

theorem witness_NopCompletes : loaded.busy = false ∧ loaded.err = false ∧ loaded.errcode = 0 := ⟨rfl, rfl, rfl⟩

/-- V94, and the word whose one bit is bit 31. -/
theorem witness_NopCompletes_reserved :
    (0x00000100 : Word) ≠ 0 ∧ (0x00000100 : Word).extractLsb' 0 8 = 0 ∧
    (0x80000000 : Word) ≠ 0 ∧ (0x80000000 : Word).extractLsb' 0 8 = 0 := by decide

theorem witness_ScalarBits : 0 < 448 ∧ 447 < 448 := by decide

theorem witness_LadderCorners : val (enc p) % p = 0 ∧ val 5 % p = val (enc (p + 5)) % p := by decide +kernel

/-- Two scalars that differ in bits 0, 1 and 447 only. -/
theorem witness_X448Corners :
    val (8 : FieldVal) % 2 ^ 447 / 4 = val (enc (2 ^ 447 + 11)) % 2 ^ 447 / 4 ∧ val (enc p) % p = 0 ∧
    val (1 : FieldVal) % p = 1 ∧ val (enc (p - 1)) % p = p - 1 := by decide +kernel

/-- Every member of the two lists of commands is one. -/
theorem witness_operand_lists : (∃ mk, mk ∈ twoOperand) ∧ ∃ mk, mk ∈ threeOperand :=
  ⟨⟨.fnorm, by simp [twoOperand]⟩, .fadd, by simp [threeOperand]⟩

end Sys2Proof.Tests
end

section
/-! PROOFS. The events of a step, said once: what raises an error, and every way a step goes to a next state. -/

namespace Sys2Proof.Machine

open Sys2Proof.Claims

/-- The operations that raise an error in the state `s`, the cause and the record of each (60_exceptions.md R202 to
R208). -/
inductive ErrorSource (s : State) : HostOp → ErrCause → Word → Prop
  | illegalOpcode (w : Word) (idle : s.busy = false) (bad : decodeWord w = .error .illegalOpcode) :
      ErrorSource s (hostWrite 0x00C w) .illegalOpcode w
  | reservedField (w : Word) (idle : s.busy = false) (bad : decodeWord w = .error .reservedField) :
      ErrorSource s (hostWrite 0x00C w) .reservedField w
  | cmdWhileBusy (w : Word) (busy : s.busy = true) : ErrorSource s (hostWrite 0x00C w) .cmdWhileBusy w
  | writeWhileBusy (n : FReg) (j : Fin 14) (v : Word) (busy : s.busy = true) :
      ErrorSource s (hostWrite (fieldOffset n j) v) .writeWhileBusy (⟨fieldOffset n j, .word, .write v⟩ : Access).info
  | badAccess (a : Access) (inside : a.off < windowSize) (bad : a.legal = false) :
      ErrorSource s (.access a) .badAccess a.info

/-- Every way a step goes from `s` to a next state. A `quiet` step moves the operations on, may answer a read and may
mark the run, and does no more; the access of an `error` may be a read, which is answered. -/
inductive StepEvent (s : State) : State → Prop
  | completion {t : State} (i : Instr) (busy : s.busy = true) (pend : s.pend = some i)
      (run : exec i { s with inbox := t.inbox } = .next t) : StepEvent s t
  | quiet (l : List HostOp) (d : Word) (m : Bool) (keeps : s.runFault = true → m = true) :
      StepEvent s { s with inbox := l, rdata := d, runFault := m }
  | statusWrite (v : Word) (rest : List HostOp) (op : s.inbox = hostWrite 0x004 v :: rest) :
      StepEvent s (({ s with inbox := rest }).writeStatus v)
  | ctrlWrite (v : Word) (rest : List HostOp) (op : s.inbox = hostWrite 0x008 v :: rest) :
      StepEvent s (({ s with inbox := rest }).writeCtrl v)
  | acceptance (w : Word) (i : Instr) (rest : List HostOp) (op : s.inbox = hostWrite 0x00C w :: rest)
      (idle : s.busy = false) (legal : decodeWord w = .ok i) :
      StepEvent s ((({ s with inbox := rest }).noteReads (sourcesOf i)).accept w i)
  | error (o : HostOp) (c : ErrCause) (info d : Word) (rest : List HostOp) (src : ErrorSource s o c info)
      (op : s.inbox = o :: rest) : StepEvent s ((({ s with inbox := rest }).raiseError c info).respond d)
  | fieldWrite (n : FReg) (j : Fin 14) (v : Word) (rest : List HostOp)
      (op : s.inbox = hostWrite (fieldOffset n j) v :: rest) (idle : s.busy = false) :
      StepEvent s (({ s with inbox := rest }).writeFieldWord n j v)
  | reset (rest : List HostOp) (op : s.inbox = .reset :: rest) : StepEvent s ({ s with inbox := rest }).applyReset

/-- The word at offset 0x008 is the only CTRL. -/
theorem windowReg_ctrl {off : Nat} (h : windowReg off = .ctrl) : off = 0x008 := by
  unfold windowReg at h
  split_ifs at h with _ _ ctrl
  · exact ctrl
  · dsimp only at h
    split at h <;> cases h

/-- Answering a read with the word that stands there already changes nothing. -/
theorem State.respond_rdata_self (s : State) : s.respond s.rdata = s := rfl

/-- An error recorded by a write is an error event that answers no read. -/
theorem StepEvent.errorOnWrite {s : State} {o : HostOp} {c : ErrCause} {info : Word} {rest : List HostOp}
    (src : ErrorSource s o c info) (op : s.inbox = o :: rest) :
    StepEvent s (({ s with inbox := rest }).raiseError c info) := by
  rw [← State.respond_rdata_self (State.raiseError _ c info)]
  exact .error o c info _ rest src op

/-- A write to CMD is an acceptance or one of three errors. -/
theorem presentCommand_event {s : State} {w : Word} {rest : List HostOp} (op : s.inbox = hostWrite 0x00C w :: rest) :
    StepEvent s (({ s with inbox := rest }).presentCommand w) := by
  rcases presentCommand_cases { s with inbox := rest } w with
    ⟨busy, e⟩ | ⟨idle, i, legal, e⟩ | ⟨idle, bad, e⟩ | ⟨idle, bad, e⟩ <;> rw [e]
  · exact .errorOnWrite (.cmdWhileBusy w busy) op
  · exact .acceptance w i rest op idle legal
  · exact .errorOnWrite (.reservedField w idle bad) op
  · exact .errorOnWrite (.illegalOpcode w idle bad) op

/-- A legal write is the event of the register that stands at its offset. -/
theorem windowWrite_event {s : State} {off : Nat} {v : Word} {rest : List HostOp} (h4 : off % 4 = 0)
    (op : s.inbox = hostWrite off v :: rest) :
    StepEvent s (({ s with inbox := rest }).windowWrite (windowReg off) v
      (⟨off, .word, .write v⟩ : Access).info) := by
  rcases windowWrite_cases { s with inbox := rest } (windowReg off) v (⟨off, .word, .write v⟩ : Access).info with
    ⟨r, e⟩ | ⟨r, e⟩ | ⟨r, e⟩ | ⟨n, j, r, busy, e⟩ | ⟨n, j, r, idle, e⟩ | ⟨-, e⟩ <;> rw [e]
  · exact .statusWrite v rest (windowReg_status r ▸ op)
  · exact .ctrlWrite v rest (windowReg_ctrl r ▸ op)
  · exact presentCommand_event (windowReg_cmd r ▸ op)
  · obtain rfl := windowReg_field h4 r
    exact .errorOnWrite (.writeWhileBusy n j v busy) op
  · exact .fieldWrite n j v rest (windowReg_field h4 r ▸ op) idle
  · exact .quiet rest s.rdata s.runFault id

/-- A step that answers a next state is one of the events. -/
theorem step_event {s t : State} (h : step s = .next t) : StepEvent s t := by
  rcases step_next_cases h with ⟨i, busy, pend, run⟩ | ⟨l, d, m, rfl, keeps⟩ |
    ⟨a, rest, op, inside, bad, rfl | rfl⟩ | ⟨off, v, rest, op, -, h4, rfl⟩ | ⟨rest, op, rfl⟩
  · exact .completion i busy pend run
  · exact .quiet l d m keeps
  · exact .errorOnWrite (.badAccess a inside bad) op
  · exact .error _ _ _ 0 rest (.badAccess a inside bad) op
  · exact windowWrite_event h4 op
  · exact .reset rest op

/-! ### What single events leave -/

/-- Every command's completion is a next state that leaves the control and status registers as R77 says. -/
theorem exec_completed (i : Instr) (s : State) : ∃ t, exec i s = .next t ∧ Completed s t := by
  cases i <;> exact ⟨_, rfl, ⟨rfl, rfl, rfl, rfl, rfl, rfl, rfl, rfl⟩⟩

/-- What a completion leaves, read off the next state. -/
theorem completed_of_exec {i : Instr} {s t : State} (h : exec i s = .next t) : Completed s t := by
  obtain ⟨u, hu, c⟩ := exec_completed i s
  obtain rfl : u = t := by rw [hu] at h; exact Host.Outcome.next.inj h
  exact c

/-- The reset event gives every register of R37 its value. -/
theorem applyReset_values (s : State) : ResetValues s.applyReset where
  unwritten n := by simp [State.applyReset, State.reset]
  busy := rfl
  done := rfl
  err := rfl
  errcode := rfl
  ie := rfl
  lastcmd := rfl
  errinfo := rfl
  ident := rfl
  pend := rfl
  irq := rfl

/-- The reset event, as a step. -/
theorem step_reset (s : State) (rest : List HostOp) :
    step { s with inbox := .reset :: rest } = .next ({ s with inbox := rest }).applyReset := rfl

/-- A write to STATUS, as a step. -/
theorem step_writeStatus (s : State) (v : Word) (rest : List HostOp) :
    step { s with inbox := hostWrite 0x004 v :: rest } = .next (({ s with inbox := rest }).writeStatus v) :=
  step_hostWrite s v rest (by decide) (by decide)

/-- A write to CTRL, as a step. -/
theorem step_writeCtrl (s : State) (v : Word) (rest : List HostOp) :
    step { s with inbox := hostWrite 0x008 v :: rest } = .next (({ s with inbox := rest }).writeCtrl v) :=
  step_hostWrite s v rest (by decide) (by decide)

/-- A write to CMD, as a step. -/
theorem step_writeCmd (s : State) (w : Word) (rest : List HostOp) :
    step { s with inbox := hostWrite 0x00C w :: rest } = .next (({ s with inbox := rest }).presentCommand w) :=
  step_hostWrite s w rest (by decide) (by decide)

/-- A legal word written to CMD of an idle engine is accepted. -/
theorem step_accept {s : State} {w : Word} {i : Instr} (rest : List HostOp) (idle : s.busy = false)
    (legal : decodeWord w = .ok i) :
    step { s with inbox := hostWrite 0x00C w :: rest } =
      .next ((({ s with inbox := rest }).noteReads (sourcesOf i)).accept w i) := by
  rw [step_writeCmd]
  simp [State.presentCommand, idle, legal]

/-- A word written to CMD of a busy engine, or one that does not decode, raises an error and does no more. -/
theorem step_reject {s : State} {w : Word} {e : DecodeError} (rest : List HostOp)
    (bad : s.busy = true ∨ decodeWord w = .error e) :
    ∃ c, step { s with inbox := hostWrite 0x00C w :: rest } =
      .next (({ s with inbox := rest }).raiseError c w) := by
  rw [step_writeCmd]
  rcases presentCommand_cases { s with inbox := rest } w with
    ⟨-, h⟩ | ⟨idle, i, legal, -⟩ | ⟨-, -, h⟩ | ⟨-, -, h⟩
  · exact ⟨_, congrArg _ h⟩
  · rcases bad with busy | bad
    · exact absurd (idle.symm.trans busy) (by decide)
    · exact absurd (legal.symm.trans bad) (by simp)
  · exact ⟨_, congrArg _ h⟩
  · exact ⟨_, congrArg _ h⟩

end Sys2Proof.Machine
end

section
/-! PROOFS. The invariant of the control and status registers (O14, O15): one lemma for each event of a step. -/

namespace Sys2Proof.Machine

open Sys2Proof.Claims

/-- What an error records is one of the five records (60_exceptions.md R201). -/
theorem ErrorSource.recordOk {s : State} {o : HostOp} {c : ErrCause} {info : Word} (src : ErrorSource s o c info) :
    errRecordOk c.code info := by
  cases src with
  | illegalOpcode w idle bad => exact .inl ⟨rfl, bad⟩
  | reservedField w idle bad => exact .inr (.inl ⟨rfl, bad⟩)
  | cmdWhileBusy w busy => exact .inr (.inr (.inl rfl))
  | writeWhileBusy n j v busy => exact .inr (.inr (.inr (.inl ⟨rfl, n, j, v, rfl⟩)))
  | badAccess a inside bad => exact .inr (.inr (.inr (.inr ⟨rfl, a, inside, bad, rfl⟩)))

/-- The invariant looks at the control and status registers alone. -/
theorem State.Inv.congr {s t : State} (h : s.Inv) (busy : t.busy = s.busy) (done : t.done = s.done)
    (err : t.err = s.err) (errcode : t.errcode = s.errcode) (errinfo : t.errinfo = s.errinfo)
    (lastcmd : t.lastcmd = s.lastcmd) (pend : t.pend = s.pend) : t.Inv where
  busy_pend := by rw [busy, pend]; exact h.busy_pend
  pend_lastcmd := by rw [pend, lastcmd]; exact h.pend_lastcmd
  lastcmd_legal := by rw [lastcmd]; exact h.lastcmd_legal
  busy_done := by rw [busy, done]; exact h.busy_done
  no_err := by rw [err, errcode, errinfo]; exact h.no_err
  err_record := by rw [err, errcode, errinfo]; exact h.err_record

/-- A completion empties PEND and clears BUSY together, and leaves LASTCMD and the error record. -/
theorem State.Inv.completed {s t : State} (h : s.Inv) (c : Completed s t) : t.Inv where
  busy_pend := by rw [c.busy, c.pend]; rfl
  pend_lastcmd i hp := by rw [c.pend] at hp; cases hp
  lastcmd_legal := by rw [c.lastcmd]; exact h.lastcmd_legal
  busy_done hb := by rw [c.busy] at hb; cases hb
  no_err := by rw [c.err, c.errcode, c.errinfo]; exact h.no_err
  err_record := by rw [c.err, c.errcode, c.errinfo]; exact h.err_record

/-- A STATUS write may clear DONE, and clears ERR only together with its record. -/
theorem State.Inv.writeStatus {s : State} (h : s.Inv) (v : Word) : (s.writeStatus v).Inv where
  busy_pend := h.busy_pend
  pend_lastcmd := h.pend_lastcmd
  lastcmd_legal := h.lastcmd_legal
  busy_done hb := by
    have := h.busy_done hb
    simp [this]
  no_err := by
    cases hv : v[2]
    · simpa [hv] using h.no_err
    · simp [hv]
  err_record := by
    cases hv : v[2]
    · simpa [hv] using h.err_record
    · simp [hv]

/-- An acceptance stores the legal word and its command, sets BUSY and clears DONE. -/
theorem State.Inv.accept {s : State} (h : s.Inv) {w : Word} {i : Instr} (legal : decodeWord w = .ok i) :
    (s.accept w i).Inv where
  busy_pend := rfl
  pend_lastcmd k hk := by cases hk; exact legal
  lastcmd_legal := ⟨i, legal⟩
  busy_done _ := rfl
  no_err := h.no_err
  err_record := h.err_record

/-- An error either is dropped or leaves one of the five records. -/
theorem State.Inv.raiseError {s : State} (h : s.Inv) {c : ErrCause} {info : Word} (ok : errRecordOk c.code info) :
    (s.raiseError c info).Inv := by
  rcases raiseError_cases s c info with ⟨-, e⟩ | ⟨-, e⟩ <;> rw [e]
  · exact h
  · exact ⟨h.busy_pend, h.pend_lastcmd, h.lastcmd_legal, h.busy_done, nofun, fun _ => ok⟩

/-- The reset event leaves the invariant whatever stood before; the word 0 of LASTCMD is NOP's. -/
theorem State.Inv.applyReset (s : State) : s.applyReset.Inv :=
  ⟨rfl, nofun, ⟨.nop, (by decide : decodeWord 0 = .ok .nop)⟩, nofun, fun _ => ⟨rfl, rfl⟩, nofun⟩

/-- Every event keeps the invariant. -/
theorem StepEvent.keepsInv {s t : State} (ev : StepEvent s t) (h : s.Inv) : t.Inv := by
  have moved (rest : List HostOp) : ({ s with inbox := rest } : State).Inv := h.congr rfl rfl rfl rfl rfl rfl rfl
  cases ev with
  | completion i busy pend run => exact (moved t.inbox).completed (completed_of_exec run)
  | quiet l d m keeps => exact h.congr rfl rfl rfl rfl rfl rfl rfl
  | statusWrite v rest op => exact (moved rest).writeStatus v
  | ctrlWrite v rest op => exact h.congr rfl rfl rfl rfl rfl rfl rfl
  | acceptance w i rest op idle legal =>
    have read : (State.noteReads { s with inbox := rest } (sourcesOf i)).Inv := h.congr rfl rfl rfl rfl rfl rfl rfl
    exact read.accept legal
  | error o c info d rest src op =>
    have raised := (moved rest).raiseError src.recordOk
    exact raised.congr rfl rfl rfl rfl rfl rfl rfl
  | fieldWrite n j v rest op idle => exact h.congr rfl rfl rfl rfl rfl rfl rfl
  | reset rest op => exact .applyReset _

/-- Settles O14: the state after reset is what the reset event leaves of it. -/
theorem resetMeetsInv : Obligations.ResetMeetsInv := State.Inv.applyReset State.reset

/-- Settles O15, by the events of a step. -/
theorem stepKeepsInv : Obligations.StepKeepsInv := by
  unfold Obligations.StepKeepsInv
  intro s t inv next
  exact (step_event next).keepsInv inv

end Sys2Proof.Machine
end

section
/-! PROOFS. The hidden registers are never observed (O37). A state with other hidden registers goes through every
operation as the state itself does, and a ladder sets every hidden register it goes on to read. -/

namespace Sys2Proof.Machine

open Sys2Proof.Claims

/-! ### A ladder does not read what it did not write -/

/-- The hidden registers that are read in a ladder's iteration before the iteration writes them, the others zeroed. -/
def Hidden.live (h : Hidden) : Hidden :=
  { Hidden.zero with x1 := h.x1, x2 := h.x2, z2 := h.z2, x3 := h.x3, z3 := h.z3, kc := h.kc, swap := h.swap }

/-- Initialization writes every register of `Hidden.live` (41_scalarmult.md R154). -/
theorem ladderInit_live (u k : FieldVal) (g h : Hidden) : (ladderInit u k g).live = (ladderInit u k h).live := rfl

/-- An iteration's live registers depend on the live registers alone (R155, R156). -/
theorem ladderIterate_live (P : PRep) (i : Nat) (h : Hidden) :
    (ladderIterate P i h).live = (ladderIterate P i h.live).live := rfl

/-- The loop's equation, between functions: with the registers as an argument the kernel would compare them with those
after the iteration before it unfolds the loop. -/
theorem ladderLoop_succ (P : PRep) (n : Nat) : ladderLoop P (n + 1) = ladderLoop P n ∘ ladderIterate P n := rfl

/-- What all the iterations leave in the live registers depends on the live registers alone. -/
theorem ladderLoop_live (P : PRep) (n : Nat) (h : Hidden) :
    (ladderLoop P n h).live = (ladderLoop P n h.live).live := by
  induction n generalizing h with
  | zero => rfl
  | succ n ih =>
    rw [ladderLoop_succ, Function.comp_apply, Function.comp_apply, ih, ladderIterate_live, ← ih]

/-- Termination reads live registers only (R157). -/
theorem ladderTerminate_live (P : PRep) (h : Hidden) : ladderTerminate P h = ladderTerminate P h.live := rfl

/-- A ladder's result is the same whatever the hidden registers held (R162). -/
theorem ladder_hidden (P : PRep) (g h : Hidden) (u k : FieldVal) : ladder P g u k = ladder P h u k := by
  unfold ladder
  rw [ladderTerminate_live, ladderLoop_live, ladderInit_live u k g h, ← ladderLoop_live, ← ladderTerminate_live]

theorem x448_hidden (P : PRep) (g h : Hidden) (u k : FieldVal) : x448 P g u k = x448 P h u k :=
  ladder_hidden P g h u (clampScalar k)

/-! ### Operations on a state with other hidden registers -/

/-- The state with the hidden registers `h` and the free-value counter `k`. -/
def State.withHidden (s : State) (h : Hidden) (k : Nat) : State := { s with hidden := h, tick := k }

@[simp] theorem State.withHidden_busy (s : State) (h : Hidden) (k : Nat) : (s.withHidden h k).busy = s.busy := rfl

@[simp] theorem State.withHidden_err (s : State) (h : Hidden) (k : Nat) : (s.withHidden h k).err = s.err := rfl

@[simp] theorem State.withHidden_pend (s : State) (h : Hidden) (k : Nat) : (s.withHidden h k).pend = s.pend := rfl

@[simp] theorem State.withHidden_inbox (s : State) (h : Hidden) (k : Nat) : (s.withHidden h k).inbox = s.inbox := rfl

/-- States alike but for the hidden registers are a state and the same with other hidden registers. -/
theorem sameVisible_iff {s t : State} : SameVisible s t ↔ ∃ h k, t = s.withHidden h k :=
  ⟨fun e => ⟨t.hidden, t.tick, e.symm⟩, by rintro ⟨h, k, rfl⟩; rfl⟩

/-! Each operation, on the state with its hidden registers replaced, does what it does on the state itself. -/

section
variable (s : State) (h : Hidden) (k : Nat)

@[simp] theorem raiseError_withHidden (c : ErrCause) (info : Word) :
    (s.withHidden h k).raiseError c info = (s.raiseError c info).withHidden h k := by
  cases he : s.err <;> simp only [State.raiseError, State.withHidden_err, he] <;> rfl

theorem presentCommand_withHidden (w : Word) :
    (s.withHidden h k).presentCommand w = (s.presentCommand w).withHidden h k := by
  cases hb : s.busy with
  | true => simp [State.presentCommand, hb]
  | false =>
    cases hd : decodeWord w with
    | ok i =>
      simp only [State.presentCommand, State.withHidden_busy, hb, hd]
      rfl
    | error e => rcases decodeWord_error hd with rfl | rfl <;> simp [State.presentCommand, hb, hd]

theorem windowWrite_withHidden (r : WindowReg) (v info : Word) :
    (s.withHidden h k).windowWrite r v info = (s.windowWrite r v info).withHidden h k := by
  cases r with
  | cmd => exact presentCommand_withHidden s h k v
  | field n j =>
    simp only [State.windowWrite, State.withHidden_busy, raiseError_withHidden]
    split <;> rfl
  | _ => rfl

theorem windowRead_withHidden (r : WindowReg) :
    (s.withHidden h k).windowRead r = (s.windowRead r).withHidden h k := by
  cases r with
  | field n j =>
    cases hb : s.busy <;> simp [State.windowRead, State.noteWindowRead, State.windowWord, hb] <;> rfl
  | _ => rfl

theorem windowAccess_withHidden (a : Access) :
    (s.withHidden h k).windowAccess a = (s.windowAccess a).withHidden h k := by
  unfold State.windowAccess State.badAccess
  split
  · cases a.kind with
    | read => exact windowRead_withHidden s h k _
    | write v => exact windowWrite_withHidden s h k _ v _
  · rw [raiseError_withHidden]
    cases a.kind <;> rfl

/-- The completion of a ladder command: its result function, taken from either state, is the same one. -/
theorem freeLadder_command2_withHidden (rd rs1 rs2 : FReg) {g g' : FieldVal → FieldVal → FieldVal}
    (same : ∀ u x, g u x = g' u x) :
    ((s.withHidden h k).command2 rd rs1 rs2 g).freeLadder =
      (s.command2 rd rs1 rs2 g').freeLadder.withHidden (Config.freeHidden k) (k + 1) := by
  obtain rfl : g = g' := funext₂ same
  rfl

/-- A completion gives the same visible state: what it reads of the hidden registers is a ladder's start, which does
not matter. -/
theorem exec_withHidden (i : Instr) :
    ∃ t g n, exec i s = .next t ∧ exec i (s.withHidden h k) = .next (t.withHidden g n) := by
  cases i with
  | ladder rd rs1 rs2 =>
    have done := freeLadder_command2_withHidden s h k rd rs1 rs2 (ladder_hidden Config.pRep h s.hidden)
    exact ⟨_, _, _, rfl, congrArg Host.Outcome.next done⟩
  | x448 rd rs1 rs2 =>
    have done := freeLadder_command2_withHidden s h k rd rs1 rs2 (x448_hidden Config.pRep h s.hidden)
    exact ⟨_, _, _, rfl, congrArg Host.Outcome.next done⟩
  | _ => exact ⟨_, _, _, rfl, rfl⟩

/-- The engine's turn. -/
theorem engineTurn_withHidden : SameOutcome SameVisible (engineTurn s) (engineTurn (s.withHidden h k)) := by
  unfold engineTurn
  rw [State.withHidden_busy, State.withHidden_pend]
  split
  · rename_i i _ _
    obtain ⟨t, g, n, e, e'⟩ := exec_withHidden s h k i
    rw [e, e']
    exact sameVisible_iff.mpr ⟨g, n, rfl⟩
  · exact sameVisible_iff.mpr ⟨h, k, rfl⟩

/-- A host access. -/
theorem hostAccess_withHidden (a : Access) :
    SameOutcome SameVisible (s.hostAccess a) ((s.withHidden h k).hostAccess a) := by
  unfold State.hostAccess
  split
  · rw [windowAccess_withHidden]
    exact sameVisible_iff.mpr ⟨h, k, rfl⟩
  · rfl

/-- Any event of a step. -/
theorem step_withHidden : SameOutcome SameVisible (step s) (step (s.withHidden h k)) := by
  unfold step
  rw [State.withHidden_inbox, State.withHidden_busy]
  split
  · exact engineTurn_withHidden s h k
  · exact engineTurn_withHidden { s with inbox := _ } h k
  · exact hostAccess_withHidden { s with inbox := _ } h k _
  · split
    · split
      · exact engineTurn_withHidden s h k
      · exact sameVisible_iff.mpr ⟨h, k, rfl⟩
    · exact sameVisible_iff.mpr ⟨h, k, rfl⟩
  · exact sameVisible_iff.mpr ⟨Hidden.zero, k, rfl⟩

end

/-- Settles O37: two such states are one with its hidden registers replaced, and every event commutes with that. -/
theorem hiddenRegistersAreUnobservable : Obligations.HiddenRegistersAreUnobservable := by
  unfold Obligations.HiddenRegistersAreUnobservable
  intro s t same
  obtain ⟨h, k, rfl⟩ := sameVisible_iff.mp same
  exact step_withHidden s h k

end Sys2Proof.Machine
end

section
/-! PROOFS. The control and status registers one by one (O12, O18 to O20, O22, O31 to O33, O35): what sets and clears
each, and that nothing else does. -/

namespace Sys2Proof.Machine

open Sys2Proof.Claims

/-! ### Reset, ID and CTRL -/

/-- Settles O12: the state after reset is what the reset event leaves of it. -/
theorem resetLeaves : Obligations.ResetLeaves := applyReset_values State.reset

/-- Settles O19: ID's word is a constant of the map, and the reset event leaves the operations to come. -/
theorem idIsConstant : Obligations.IdIsConstant := by
  unfold Obligations.IdIsConstant
  intro s v rest
  have read (u : State) : step { u with inbox := hostRead 0x000 :: rest } =
      .next { u with inbox := rest, rdata := 0x38343458 } := step_hostRead u rest (by decide) (by decide)
  refine ⟨read s, step_hostWrite s v rest (by decide) (by decide), _, step_reset s _, ?_⟩
  exact read ({ s with inbox := hostRead 0x000 :: rest } : State).applyReset

/-- The CTRL word as a number. -/
theorem ctrlWord_eq (s : State) : s.ctrlWord = if s.ie = true then 1 else 0 := by
  cases h : s.ie <;> simp [State.ctrlWord, h]

/-- Settles O18, by the map's entry for CTRL and the two words as numbers. -/
theorem ctrlReadAndWrite : Obligations.CtrlReadAndWrite := by
  unfold Obligations.CtrlReadAndWrite
  intro s v rest
  refine ⟨?_, ?_, rfl, fun off => by simp [State.irq, off], fun on => by simp [State.irq, on]⟩
  · rw [← ctrlWord_eq]
    exact step_hostRead s rest (by decide) (by decide)
  · have low : v[0] = (v.toNat % 2 == 1) := by
      simp [BitVec.getElem_eq_testBit_toNat, Nat.testBit_zero, Bool.beq_eq_decide_eq]
    rw [step_writeCtrl, State.writeCtrl, low]

/-! ### CMD -/

/-- A read of CMD returns LASTCMD and does nothing else. -/
theorem step_readCmd (s : State) (rest : List HostOp) :
    step { s with inbox := hostRead 0x00C :: rest } = .next { s with inbox := rest, rdata := s.lastcmd } :=
  step_hostRead s rest (by decide) (by decide)

/-- LASTCMD changes only to a word that is accepted, or by reset. -/
theorem StepEvent.lastcmd_change {s t : State} (ev : StepEvent s t) (changed : t.lastcmd ≠ s.lastcmd) :
    (∃ w i, s.inbox = hostWrite 0x00C w :: t.inbox ∧ s.busy = false ∧ decodeWord w = .ok i ∧ t.lastcmd = w ∧
      t.pend = some i) ∨
    (s.inbox = .reset :: t.inbox ∧ t.lastcmd = 0) := by
  cases ev with
  | completion i busy pend run => exact absurd (completed_of_exec run).lastcmd changed
  | acceptance w i rest op idle legal => exact .inl ⟨w, i, op, idle, legal, rfl, rfl⟩
  | error o c info d rest src op => simp at changed
  | reset rest op => exact .inr ⟨op, rfl⟩
  | _ => exact absurd rfl changed

/-- Settles O20, by the events of a step. -/
theorem cmdReadReturnsLastAccepted : Obligations.CmdReadReturnsLastAccepted := by
  unfold Obligations.CmdReadReturnsLastAccepted
  refine ⟨step_readCmd, ?_, ?_, rfl, fun s t next => (step_event next).lastcmd_change⟩
  · intro s w i rest idle legal
    exact ⟨_, step_accept rest idle legal, rfl, rfl, rfl, step_readCmd _ rest⟩
  · intro s w e rest bad
    obtain ⟨c, raised⟩ := step_reject rest bad
    exact ⟨_, raised, by simp, by simp, by simp⟩

/-! ### ERRINFO -/

/-- A data word is inside the window. -/
theorem fieldOffset_lt (n : FReg) (j : Fin 14) : fieldOffset n j < windowSize := by
  unfold fieldOffset windowSize
  omega

/-- The fields of the word {13'b0, size, write, 4'b0, offset} (60_exceptions.md R207). -/
theorem recordWord_fields (z : BitVec 2) (w : Bool) (o : BitVec 12) :
    let r := 0#13 ++ z ++ BitVec.ofBool w ++ 0#4 ++ o
    r.extractLsb' 0 12 = o ∧ r.extractLsb' 12 4 = 0 ∧ r[16] = w ∧ r.extractLsb' 17 2 = z ∧
      r.extractLsb' 19 13 = 0 := by
  intro r
  refine ⟨BitVec.extractLsb'_append_eq_right, ?_, ?_, ?_, ?_⟩ <;> unfold r
  · rw [BitVec.extractLsb'_append_eq_of_le (by decide)]
    exact BitVec.extractLsb'_append_eq_right
  · simp only [BitVec.getElem_append]
    simp
  · iterate 3 rw [BitVec.extractLsb'_append_eq_of_le (by decide)]
    exact BitVec.extractLsb'_append_eq_right
  · iterate 4 rw [BitVec.extractLsb'_append_eq_of_le (by decide)]
    exact BitVec.extractLsb'_eq_self

/-- The record of an access inside the window holds its offset, write flag and size code (10_state.md R29). -/
theorem accessInfo_fields {a : Access} (inside : a.off < windowSize) :
    (a.info.extractLsb' 0 12).toNat = a.off ∧ a.info.extractLsb' 12 4 = 0 ∧ a.info[16] = a.kind.isWrite ∧
    a.info.extractLsb' 17 2 = a.size.code ∧ a.info.extractLsb' 19 13 = 0 := by
  obtain ⟨offset, rest⟩ := recordWord_fields a.size.code a.kind.isWrite (BitVec.ofNat 12 a.off)
  refine ⟨?_, rest⟩
  calc (a.info.extractLsb' 0 12).toNat = (BitVec.ofNat 12 a.off).toNat := congrArg BitVec.toNat offset
    _ = a.off := by rw [BitVec.toNat_ofNat]; exact Nat.mod_eq_of_lt inside
/-- The record of an error is the rejected word, with codes 1 to 3, or the access, with codes 4 and 5. -/
theorem ErrorSource.record {s : State} {o : HostOp} {c : ErrCause} {info : Word} (src : ErrorSource s o c info) :
    ((c.code = 1 ∨ c.code = 2 ∨ c.code = 3) ∧ o = hostWrite 0x00C info) ∨
    ((c.code = 4 ∨ c.code = 5) ∧ ∃ a : Access, o = .access a ∧ a.off < windowSize ∧ info = a.info) := by
  cases src with
  | illegalOpcode w idle bad => exact .inl ⟨.inl rfl, rfl⟩
  | reservedField w idle bad => exact .inl ⟨.inr (.inl rfl), rfl⟩
  | cmdWhileBusy w busy => exact .inl ⟨.inr (.inr rfl), rfl⟩
  | writeWhileBusy n j v busy => exact .inr ⟨.inl rfl, _, rfl, fieldOffset_lt n j, rfl⟩
  | badAccess a inside bad => exact .inr ⟨.inr rfl, a, rfl, inside, rfl⟩

/-- ERR is set only by an operation that raises an error, which leaves its cause and its record. -/
theorem StepEvent.err_set {s t : State} (ev : StepEvent s t) (clear : s.err = false) (set : t.err = true) :
    ∃ o c, ErrorSource s o c t.errinfo ∧ s.inbox = o :: t.inbox ∧ t.errcode = c.code := by
  cases ev with
  | completion i busy pend run => simp [(completed_of_exec run).err, clear] at set
  | error o c info d rest src op => exact ⟨o, c, by simpa [clear] using src, by simpa using op, by simp [clear]⟩
  | reset rest op => cases set
  | statusWrite v rest op => simp [clear] at set
  | _ => exact absurd (clear.symm.trans set) (by decide)

/-- Settles O22, by the events of a step. -/
theorem errinfoRecordsTheAccess : Obligations.ErrinfoRecordsTheAccess := by
  unfold Obligations.ErrinfoRecordsTheAccess
  refine ⟨fun s rest => step_hostRead s rest (by decide) (by decide), rfl, ?_, ?_⟩
  · intro s v rest clear
    exact ⟨_, step_writeStatus s v rest, by simp [clear], by simp [clear]⟩
  · intro s t next clear set
    obtain ⟨o, c, src, op, code⟩ := (step_event next).err_set clear set
    rw [code]
    rcases src.record with ⟨codes, rfl⟩ | ⟨codes, a, rfl, inside, info⟩
    · exact .inl ⟨codes, _, op, rfl⟩
    · rw [info]
      obtain ⟨offset, pad, write, size, top⟩ := accessInfo_fields inside
      refine .inr ⟨codes, a, op, offset, pad, ?_, ?_, top⟩
      · rw [write]
        cases a.kind <;> rfl
      · rw [size]
        cases a.size <;> rfl

/-! ### BUSY, DONE, the field registers and IRQ -/

/-- BUSY is set only by an acceptance. -/
theorem StepEvent.busy_set {s t : State} (ev : StepEvent s t) (idle : s.busy = false) (busy : t.busy = true) :
    ∃ w i, s.inbox = hostWrite 0x00C w :: t.inbox ∧ decodeWord w = .ok i ∧ t.pend = some i ∧ t.lastcmd = w := by
  cases ev with
  | completion i was pend run => exact absurd (idle.symm.trans was) (by decide)
  | acceptance w i rest op _ legal => exact ⟨w, i, op, legal, rfl, rfl⟩
  | error o c info d rest src op => simp [idle] at busy
  | reset rest op => cases busy
  | _ => exact absurd (idle.symm.trans busy) (by decide)

/-- BUSY is cleared only by the pending command's completion or by reset. -/
theorem StepEvent.busy_cleared {s t : State} (ev : StepEvent s t) (busy : s.busy = true) (idle : t.busy = false) :
    s.inbox = .reset :: t.inbox ∨ ∃ i, s.pend = some i ∧ exec i { s with inbox := t.inbox } = .next t := by
  cases ev with
  | completion i _ pend run => exact .inr ⟨i, pend, run⟩
  | acceptance w i rest op _ legal => cases idle
  | error o c info d rest src op => simp [busy] at idle
  | reset rest op => exact .inl op
  | _ => exact absurd (idle.symm.trans busy) (by decide)

/-- Settles O31, by the events of a step. -/
theorem busyChangesOnly : Obligations.BusyChangesOnly := by
  unfold Obligations.BusyChangesOnly
  refine ⟨?_, ?_, fun s rest => ⟨_, step_reset s rest, rfl⟩, ?_⟩
  · intro s w i rest idle legal
    exact ⟨_, step_accept rest idle legal, rfl, rfl⟩
  · intro i s
    obtain ⟨t, run, done⟩ := exec_completed i s
    exact ⟨t, run, done.busy⟩
  · intro s t next
    exact ⟨(step_event next).busy_set, (step_event next).busy_cleared⟩

/-- DONE is set only by the pending command's completion. -/
theorem StepEvent.done_set {s t : State} (ev : StepEvent s t) (clear : s.done = false) (set : t.done = true) :
    ∃ i, s.pend = some i ∧ exec i { s with inbox := t.inbox } = .next t := by
  cases ev with
  | completion i _ pend run => exact ⟨i, pend, run⟩
  | statusWrite v rest op => simp [clear] at set
  | acceptance w i rest op _ legal => cases set
  | error o c info d rest src op => simp [clear] at set
  | reset rest op => cases set
  | _ => exact absurd (clear.symm.trans set) (by decide)

/-- DONE is cleared only by an acceptance, a STATUS write with bit 1 set, or reset. -/
theorem StepEvent.done_cleared {s t : State} (ev : StepEvent s t) (set : s.done = true) (clear : t.done = false) :
    (∃ w i, s.busy = false ∧ s.inbox = hostWrite 0x00C w :: t.inbox ∧ decodeWord w = .ok i ∧ t.pend = some i) ∨
    (∃ v, s.inbox = hostWrite 0x004 v :: t.inbox ∧ v[1] = true) ∨ s.inbox = .reset :: t.inbox := by
  cases ev with
  | completion i _ pend run => exact absurd (clear.symm.trans (completed_of_exec run).done) (by decide)
  | statusWrite v rest op => exact .inr (.inl ⟨v, op, by simpa [set] using clear⟩)
  | acceptance w i rest op idle legal => exact .inl ⟨w, i, idle, op, legal, rfl⟩
  | error o c info d rest src op => simp [set] at clear
  | reset rest op => exact .inr (.inr op)
  | _ => exact absurd (clear.symm.trans set) (by decide)

/-- Settles O32, by the events of a step. -/
theorem doneChangesOnly : Obligations.DoneChangesOnly := by
  unfold Obligations.DoneChangesOnly
  refine ⟨?_, ?_, ?_, fun s rest => ⟨_, step_reset s rest, rfl⟩, ?_, ?_⟩
  · intro s w i rest idle legal
    exact ⟨_, step_accept rest idle legal, rfl⟩
  · intro i s
    obtain ⟨t, run, done⟩ := exec_completed i s
    exact ⟨t, run, done.done⟩
  · intro s v rest bit
    exact ⟨_, step_writeStatus s v rest, by simp [bit]⟩
  · intro s w e rest bad
    obtain ⟨c, raised⟩ := step_reject rest bad
    exact ⟨_, raised, by simp⟩
  · intro s t next
    exact ⟨(step_event next).done_set, (step_event next).done_cleared⟩

/-- Settles O33, by the events of a step. -/
theorem fieldRegistersChangeOnly : Obligations.FieldRegistersChangeOnly := by
  unfold Obligations.FieldRegistersChangeOnly
  intro s t next changed
  cases step_event next with
  | completion i busy pend run => exact .inl ⟨i, busy, pend, run⟩
  | error o c info d rest src op => simp at changed
  | fieldWrite n j v rest op idle => exact .inr (.inl ⟨n, j, v, idle, op⟩)
  | reset rest op => exact .inr (.inr op)
  | _ => exact absurd rfl changed

/-- IRQ is the level IE and (DONE or ERR). -/
theorem irq_iff (s : State) : s.irq = true ↔ s.ie = true ∧ (s.done = true ∨ s.err = true) := by
  simp [State.irq]

/-- Settles O35, by what a completion and the two writes leave of IE, DONE and ERR. -/
theorem irqLevel : Obligations.IrqLevel := by
  unfold Obligations.IrqLevel
  refine ⟨irq_iff, ?_, ?_, ?_, rfl⟩
  · intro i s
    obtain ⟨t, run, done⟩ := exec_completed i s
    exact ⟨t, run, by simp [State.irq, done.ie, done.done]⟩
  · intro s v rest bit1 bit2
    exact ⟨_, step_writeStatus s v rest, by simp [State.irq, bit1, bit2]⟩
  · intro s v rest bit0
    exact ⟨_, step_writeCtrl s v rest, by simp [State.irq, bit0]⟩

end Sys2Proof.Machine
end

section
/-! PROOFS. The register window (O8, O16, O21, O25, O26, O28, O34): what stands at an offset, what an access there does
while the engine is idle or busy, and what an access with an error records. -/

namespace Sys2Proof.Machine

open Sys2Proof.Claims

/-! ### The address map -/

/-- The word of a register is found at its own offset (20_memory.md R51, R52). -/
@[simp] theorem windowReg_fieldOffset (n : FReg) (j : Fin 14) : windowReg (fieldOffset n j) = .field n j := by
  have slot : (fieldOffset n j - 0x100) / 64 = n.val := by unfold fieldOffset; omega
  have word : (fieldOffset n j - 0x100) % 64 / 4 = j.val := by unfold fieldOffset; omega
  have low : 0x100 ≤ fieldOffset n j := by unfold fieldOffset; omega
  have high : fieldOffset n j < 0x500 := by unfold fieldOffset; omega
  unfold windowReg
  rw [if_neg (by omega), if_neg (by omega), if_neg (by omega), if_neg (by omega), if_neg (by omega),
    if_neg (by omega), if_pos high]
  simp [slot, word]

/-- 0x014 to 0x0FF and 0x500 up are reserved (R54). -/
theorem windowReg_reserved {off : Nat} (h4 : off % 4 = 0) (h : (0x014 ≤ off ∧ off < 0x100) ∨ 0x500 ≤ off) :
    windowReg off = .reserved := by
  unfold windowReg
  rw [if_neg (by omega), if_neg (by omega), if_neg (by omega), if_neg (by omega), if_neg (by omega)]
  rcases h with ⟨-, high⟩ | low
  · exact if_pos high
  · rw [if_neg (by omega), if_neg (by omega)]

/-- Words 14 and 15 of a slot are padding (R53). -/
theorem windowReg_padding {off : Nat} (low : 0x100 ≤ off) (high : off < 0x500) (word : 56 ≤ off % 64) :
    windowReg off = .padding := by
  unfold windowReg
  rw [if_neg (by omega), if_neg (by omega), if_neg (by omega), if_neg (by omega), if_neg (by omega),
    if_neg (by omega), if_pos high]
  exact dif_neg (by omega)

/-- Any other offset of a slot is a data word's. -/
theorem exists_fieldOffset {off : Nat} (h4 : off % 4 = 0) (low : 0x100 ≤ off) (high : off < 0x500)
    (word : off % 64 < 56) : ∃ n j, fieldOffset n j = off := by
  refine ⟨⟨(off - 0x100) / 64, by omega⟩, ⟨off % 64 / 4, by omega⟩, ?_⟩
  simp only [fieldOffset]
  omega

/-- Settles O16, one range of the map at a time. -/
theorem windowMap : Obligations.WindowMap := by
  unfold Obligations.WindowMap
  refine ⟨windowReg_fieldOffset, fun _ _ => rfl, rfl, rfl, rfl, rfl, rfl, fun off inside h4 => ⟨?_, ?_, ?_⟩⟩
  · exact windowReg_reserved h4
  · rintro ⟨low, high, word⟩
    exact windowReg_padding low high word
  · rintro ⟨low, high, word⟩
    obtain ⟨n, j, rfl⟩ := exists_fieldOffset h4 low high word
    exact ⟨n, j, windowReg_fieldOffset n j, rfl⟩

/-! ### Reads and writes of the map's entries -/

theorem fieldOffset_aligned (n : FReg) (j : Fin 14) : fieldOffset n j % 4 = 0 := by
  unfold fieldOffset
  omega

/-- A read of a data word, as a step. -/
theorem step_readField (s : State) (n : FReg) (j : Fin 14) (rest : List HostOp) :
    step { s with inbox := hostRead (fieldOffset n j) :: rest } =
      .next (({ s with inbox := rest }).windowRead (.field n j)) := by
  rw [step_hostRead s rest (fieldOffset_lt n j) (fieldOffset_aligned n j), windowReg_fieldOffset]

/-- A write to a data word, as a step. -/
theorem step_writeField (s : State) (n : FReg) (j : Fin 14) (v : Word) (rest : List HostOp) :
    step { s with inbox := hostWrite (fieldOffset n j) v :: rest } =
      .next (({ s with inbox := rest }).windowWrite (.field n j) v
        (⟨fieldOffset n j, .word, .write v⟩ : Access).info) := by
  rw [step_hostWrite s v rest (fieldOffset_lt n j) (fieldOffset_aligned n j), windowReg_fieldOffset]

/-- Settles O28: a legal read is a step, and its next state is named by what it may change. -/
theorem readsHaveNoSideEffect : Obligations.ReadsHaveNoSideEffect := by
  unfold Obligations.ReadsHaveNoSideEffect
  intro s off rest inside h4
  rw [step_hostRead s rest inside h4, windowRead_eq]
  exact ⟨_, _, rfl⟩

/-- A STATUS write uses bits 1 and 2 of its value alone (10_state.md R24). -/
theorem State.writeStatus_congr (s : State) {v w : Word} (bit1 : v[1] = w[1]) (bit2 : v[2] = w[2]) :
    s.writeStatus v = s.writeStatus w := by
  simp only [State.writeStatus, bit1, bit2]

/-- A STATUS write with bits 1 and 2 clear changes nothing. -/
theorem State.writeStatus_eq_self (s : State) {v : Word} (bit1 : v[1] = false) (bit2 : v[2] = false) :
    s.writeStatus v = s := by
  simp [State.writeStatus, bit1, bit2]

/-- The offsets of R53 and R54 hold padding or nothing. -/
theorem windowReg_inert {off : Nat} (h4 : off % 4 = 0)
    (h : (0x014 ≤ off ∧ off < 0x100) ∨ (0x500 ≤ off ∧ off < 0x1000) ∨ (0x100 ≤ off ∧ off < 0x500 ∧ 56 ≤ off % 64)) :
    windowReg off = .reserved ∨ windowReg off = .padding := by
  rcases h with low | ⟨high, -⟩ | ⟨low, high, word⟩
  · exact .inl (windowReg_reserved h4 (.inl low))
  · exact .inl (windowReg_reserved h4 (.inr high))
  · exact .inr (windowReg_padding low high word)

/-- Settles O21, by the map's entries and by the bits a write to STATUS or CTRL uses. -/
theorem reservedAndPaddingAreInert : Obligations.ReservedAndPaddingAreInert := by
  unfold Obligations.ReservedAndPaddingAreInert
  intro s off v rest
  refine ⟨fun h4 range => ?_, ?_, ?_, ?_, ?_⟩
  · have inside : off < 4096 := by omega
    rw [step_hostRead s rest inside h4, step_hostWrite s v rest inside h4]
    rcases windowReg_inert h4 range with r | r <;> rw [r] <;> exact ⟨rfl, rfl⟩
  · rintro (rfl | rfl) <;> exact step_hostWrite s v rest (by decide) (by decide)
  · rw [step_writeStatus, step_writeStatus]
    exact congrArg _ (State.writeStatus_congr _ (by simp) (by simp))
  · rw [step_writeStatus]
    exact congrArg _ (State.writeStatus_eq_self _ (by simp) (by simp))
  · rw [step_writeCtrl, step_writeCtrl]
    simp [State.writeCtrl]

/-! ### Accesses that raise an error -/

/-- The error entry, with the cause as its code (60_exceptions.md R207). -/
theorem raiseError_eq (s : State) (c : ErrCause) (info : Word) :
    s.raiseError c info = errorRecorded s c.code info := rfl

/-- Two vectors side by side, as a number. -/
theorem toNat_append_eq_add {m n : Nat} (x : BitVec m) (y : BitVec n) :
    (x ++ y).toNat = x.toNat * 2 ^ n + y.toNat := by
  rw [BitVec.toNat_append, ← Nat.shiftLeft_add_eq_or_of_lt y.isLt, Nat.shiftLeft_eq]

/-- The record of an access as a number: the offset, the write flag at bit 16, the size code at bit 17
(10_state.md R29). -/
theorem accessInfo_eq {a : Access} (inside : a.off < windowSize) :
    a.info = BitVec.ofNat 32 (a.off + a.kind.isWrite.toNat * 2 ^ 16 + a.size.code.toNat * 2 ^ 17) := by
  unfold windowSize at inside
  have size := a.size.code.isLt
  have write := a.kind.isWrite.toNat_lt
  apply BitVec.eq_of_toNat_eq
  simp only [Access.info, toNat_append_eq_add, BitVec.toNat_ofNat, BitVec.toNat_ofBool]
  omega

/-- The record of a 32-bit write to a data word as a number. -/
theorem fieldWriteInfo_eq (n : FReg) (j : Fin 14) (v : Word) :
    (⟨fieldOffset n j, .word, .write v⟩ : Access).info =
      BitVec.ofNat 32 (fieldOffset n j + 2 ^ 16 + 2 * 2 ^ 17) := by
  rw [accessInfo_eq (fieldOffset_lt n j)]
  simp [AccessKind.isWrite, AccessSize.code]

/-- An access inside the window that is not legal, as a step (20_memory.md R56). -/
theorem step_badAccess (s : State) {a : Access} (rest : List HostOp) (inside : a.off < windowSize)
    (bad : a.size ≠ .word ∨ a.off % 4 ≠ 0) :
    step { s with inbox := .access a :: rest } = .next (({ s with inbox := rest }).badAccess a) := by
  have illegal : a.legal = false := by
    rcases bad with size | align
    · simp [Access.legal, size]
    · simp [Access.legal, align]
  simp [step, State.hostAccess, State.windowAccess, inside, illegal]

/-- Settles O26: the check of width and alignment stands first, and its record is a number. -/
theorem badAccessComesFirst : Obligations.BadAccessComesFirst := by
  unfold Obligations.BadAccessComesFirst
  intro s a rest inside bad
  rw [step_badAccess s rest inside bad, State.badAccess, accessInfo_eq inside]
  obtain ⟨off, size, kind⟩ := a
  cases kind <;> cases size <;> rfl

/-- A command word written to a busy engine (60_exceptions.md R204). -/
theorem step_writeCmd_busy {s : State} {w : Word} {rest : List HostOp} (busy : s.busy = true) :
    step { s with inbox := hostWrite 0x00C w :: rest } = .next (errorRecorded { s with inbox := rest } 3 w) := by
  have now : ({ s with inbox := rest } : State).busy = true := busy
  rw [step_writeCmd, State.presentCommand, if_pos now, raiseError_eq]
  rfl

/-- Settles O8: the completion leaves the engine idle with the CMD write next; before it, BUSY rejects the word. -/
theorem raceAdmitsBothOrders : Obligations.RaceAdmitsBothOrders := by
  unfold Obligations.RaceAdmitsBothOrders
  intro s t i j w rest busy pend legal run
  have next : t.inbox = hostWrite 0x00C w :: rest := exec_inbox run
  refine ⟨?_, ?_, step_writeCmd_busy busy⟩
  · rw [← run]
    simp [step, engineTurn, busy, pend]
  · calc step t = step { t with inbox := hostWrite 0x00C w :: rest } := by rw [← next]
      _ = _ := step_accept rest (completed_of_exec run).busy legal

/-! ### The window while a command is in progress -/

/-- A read of a data word of a busy engine returns 0 and reads no register (20_memory.md R59). -/
theorem windowRead_field_busy {s : State} (busy : s.busy = true) (n : FReg) (j : Fin 14) :
    s.windowRead (.field n j) = { s with rdata := 0 } := by
  simp [State.windowRead, State.noteWindowRead, State.windowWord, State.respond, busy]

/-- A write to a data word of a busy engine is an error (60_exceptions.md R205). -/
theorem windowWrite_field_busy {s : State} (busy : s.busy = true) (n : FReg) (j : Fin 14) (v info : Word) :
    s.windowWrite (.field n j) v info = s.raiseError .writeWhileBusy info := by
  simp [State.windowWrite, busy]

/-- STATUS of a busy engine is that of the idle one with BUSY's bit set (10_state.md R24). -/
theorem statusWord_busy {s : State} (busy : s.busy = true) :
    s.statusWord = ({ s with busy := false } : State).statusWord ||| 1 := by
  have bit : (1 : Word) = 0#31 ++ 1#1 := by decide
  simp only [State.statusWord, busy, bit]
  rw [BitVec.or_append, BitVec.or_zero]
  rfl

/-- A legal read that is not of a data word leaves, but for the word read, what it leaves of the idle engine. -/
theorem windowRead_idle (s : State) {r : WindowReg} (other : ∀ n j, r ≠ .field n j) :
    { s.windowRead r with rdata := (({ s with busy := false } : State).windowRead r).rdata, busy := false } =
      ({ s with busy := false } : State).windowRead r := by
  cases r with
  | field n j => exact absurd rfl (other n j)
  | _ => rfl

/-- The word a legal read returns is the same while busy, unless it is STATUS or a data word. -/
theorem windowWord_idle {s : State} {r : WindowReg} (other : ∀ n j, r ≠ .field n j) (status : r ≠ .status) :
    s.windowWord r = ({ s with busy := false } : State).windowWord r := by
  cases r with
  | field n j => exact absurd rfl (other n j)
  | status => exact absurd rfl status
  | _ => rfl

/-- A legal write that is to neither a data word nor CMD does to a busy engine what it does to the idle one. -/
theorem windowWrite_idle (s : State) {r : WindowReg} (v info : Word) (other : ∀ n j, r ≠ .field n j)
    (cmd : r ≠ .cmd) :
    { s.windowWrite r v info with busy := false } = ({ s with busy := false } : State).windowWrite r v info := by
  cases r with
  | field n j => exact absurd rfl (other n j)
  | cmd => exact absurd rfl cmd
  | _ => rfl

/-- Settles O25: data words and CMD by the rules of a busy engine, every other entry by comparison with the idle one. -/
theorem busyWindow : Obligations.BusyWindow := by
  unfold Obligations.BusyWindow
  intro s n j w rest busy
  have now : ({ s with inbox := rest } : State).busy = true := busy
  refine ⟨?_, ?_, step_writeCmd_busy busy, fun off inside h4 other => ⟨?_, fun notCmd => ?_⟩⟩
  · rw [step_readField, windowRead_field_busy now]
  · rw [step_writeField, windowWrite_field_busy now, raiseError_eq, fieldWriteInfo_eq]
    rfl
  · refine ⟨_, _, step_hostRead s rest inside h4, step_hostRead { s with busy := false } rest inside h4, ?_, ?_, ?_⟩
    · exact windowRead_idle { s with inbox := rest } other
    · intro notStatus
      exact windowWord_idle other (fun r => notStatus (windowReg_status r))
    · rintro rfl
      exact statusWord_busy now
  · refine ⟨_, _, step_hostWrite s w rest inside h4, step_hostWrite { s with busy := false } w rest inside h4, ?_⟩
    exact windowWrite_idle { s with inbox := rest } w _ other fun r => notCmd (windowReg_cmd r)

/-- What an access of a busy engine leaves as it was: all that a completion uses (20_memory.md R59, R64). -/
structure OperandsKept (s t : State) : Prop where
  f       : t.f = s.f
  written : t.written = s.written
  pend    : t.pend = s.pend
  busy    : t.busy = s.busy
  lastcmd : t.lastcmd = s.lastcmd
  hidden  : t.hidden = s.hidden
  inbox   : t.inbox = s.inbox

theorem OperandsKept.refl (s : State) : OperandsKept s s := ⟨rfl, rfl, rfl, rfl, rfl, rfl, rfl⟩

/-- Recording an error is no change of an operand. -/
theorem OperandsKept.raiseError (s : State) (c : ErrCause) (info : Word) : OperandsKept s (s.raiseError c info) := by
  constructor <;> simp

/-- A legal write to a busy engine: an error, or a write to STATUS or CTRL, or nothing. -/
theorem OperandsKept.windowWrite {s : State} (busy : s.busy = true) (r : WindowReg) (v info : Word) :
    OperandsKept s (s.windowWrite r v info) := by
  rcases windowWrite_cases s r v info with
    ⟨-, e⟩ | ⟨-, e⟩ | ⟨-, e⟩ | ⟨n, j, -, -, e⟩ | ⟨n, j, -, idle, -⟩ | ⟨-, e⟩
  · exact e ▸ ⟨rfl, rfl, rfl, rfl, rfl, rfl, rfl⟩
  · exact e ▸ ⟨rfl, rfl, rfl, rfl, rfl, rfl, rfl⟩
  · rw [e, State.presentCommand, if_pos busy]
    exact .raiseError s _ _
  · exact e ▸ .raiseError s _ _
  · exact absurd (idle.symm.trans busy) (by decide)
  · rw [e]
    exact .refl s

/-- Any access inside the window of a busy engine. -/
theorem OperandsKept.windowAccess {s : State} (busy : s.busy = true) (a : Access) :
    OperandsKept s (s.windowAccess a) := by
  rcases windowAccess_cases s a with ⟨-, -, e⟩ | ⟨-, v, -, e⟩ | ⟨-, -, e⟩ | ⟨-, v, -, e⟩ <;> rw [e]
  · rw [windowRead_eq]
    exact ⟨rfl, rfl, rfl, rfl, rfl, rfl, rfl⟩
  · exact .windowWrite busy _ v _
  · constructor <;> simp
  · exact .raiseError s _ _

/-- An access inside the window, as a step. -/
theorem step_access (s : State) {a : Access} (rest : List HostOp) (inside : a.off < windowSize) :
    step { s with inbox := .access a :: rest } = .next (({ s with inbox := rest }).windowAccess a) := by
  simp [step, State.hostAccess, inside]

/-- One more step, before any number of them. -/
theorem stepN_succ {s t : State} (k : Nat) (next : step s = .next t) : stepN (k + 1) s = stepN k t := by
  rw [stepN, next]

/-- Settles O34, by induction on the accesses. -/
theorem operandsStandUntilCompletion : Obligations.OperandsStandUntilCompletion := by
  unfold Obligations.OperandsStandUntilCompletion
  intro s l rest busy inside
  induction l generalizing s with
  | nil => exact ⟨_, rfl, rfl, rfl, rfl, busy, rfl, rfl, rfl⟩
  | cons a l ih =>
    have inside_a : a.off < windowSize := inside a (by simp)
    have now : ({ s with inbox := l.map .access ++ rest } : State).busy = true := busy
    have kept := OperandsKept.windowAccess now a
    have first := step_access s (l.map .access ++ rest) inside_a
    generalize State.windowAccess _ a = u at kept first
    obtain ⟨t, run, f, written, pend, still, lastcmd, hidden, inbox⟩ :=
      ih u (kept.busy.trans busy) fun b hb => inside b (by simp [hb])
    refine ⟨t, ?_, f.trans kept.f, written.trans kept.written, pend.trans kept.pend, still,
      lastcmd.trans kept.lastcmd, hidden.trans kept.hidden, inbox⟩
    have moved : u.inbox = l.map .access ++ rest := kept.inbox
    rw [← run, ← moved]
    exact stepN_succ l.length first

end Sys2Proof.Machine
end

section
/-! PROOFS. The data words of the field registers (O23, O24): a register's bytes and words seen through a store, and the
fourteen accesses of LDF and STF. -/

namespace Sys2Proof.Machine

open Sys2Proof.Claims

/-! ### Bits, bytes and words of a value -/

/-- A bit of a value whose bits from `lo` up have been replaced. -/
theorem getLsbD_putBits {w : Nat} (x : FieldVal) (lo : Nat) (v : BitVec w) {i : Nat} (hi : i < 448) :
    (putBits x lo v).getLsbD i = if lo ≤ i ∧ i < lo + w then v.getLsbD (i - lo) else x.getLsbD i := by
  by_cases inside : lo ≤ i ∧ i < lo + w
  · have low : ¬ i < lo := by omega
    have high : i - lo < w := by omega
    simp [putBits, hi, inside, low, high]
  · by_cases low : i < lo
    · simp [putBits, hi, low]
    · have high : w ≤ i - lo := by omega
      simp [putBits, hi, inside, low, high]

/-- A slice of a value inside the bits that are replaced is a slice of what replaces them. -/
theorem extractLsb'_putBits_inside {w lo i n : Nat} (x : FieldVal) (v : BitVec w) (top : i + n ≤ 448) (low : lo ≤ i)
    (high : i + n ≤ lo + w) : (putBits x lo v).extractLsb' i n = v.extractLsb' (i - lo) n := by
  ext k hk
  rw [BitVec.getElem_extractLsb' hk, BitVec.getElem_extractLsb' hk, getLsbD_putBits x lo v (by omega),
    if_pos (by omega)]
  congr 1
  omega

/-- A slice apart from the bits that are replaced is as it was. -/
theorem extractLsb'_putBits_outside {w lo i n : Nat} (x : FieldVal) (v : BitVec w) (top : i + n ≤ 448)
    (apart : i + n ≤ lo ∨ lo + w ≤ i) : (putBits x lo v).extractLsb' i n = x.extractLsb' i n := by
  ext k hk
  rw [BitVec.getElem_extractLsb' hk, BitVec.getElem_extractLsb' hk, getLsbD_putBits x lo v (by omega),
    if_neg (by omega)]

/-- A byte of a value one of whose words has been stored: the word's own byte, or as it was (20_memory.md R52). -/
theorem byteOf_setWord (x : FieldVal) (j : Fin 14) (v : Word) {k : Nat} (hk : k < 56) :
    byteOf (setWord x j.val v) k =
      if 4 * j.val ≤ k ∧ k < 4 * j.val + 4 then v.extractLsb' (8 * (k - 4 * j.val)) 8 else byteOf x k := by
  unfold byteOf setWord
  split
  · rw [extractLsb'_putBits_inside x v (by omega) (by omega) (by omega)]
    congr 1
    omega
  · exact extractLsb'_putBits_outside x v (by omega) (by omega)

/-- A word of a value one of whose words has been stored. -/
theorem wordOf_setWord (x : FieldVal) (j k : Fin 14) (v : Word) :
    wordOf (setWord x j.val v) k.val = if k = j then v else wordOf x k.val := by
  unfold wordOf setWord
  split
  · subst k
    rw [extractLsb'_putBits_inside x v (by omega) (by omega) (by omega), Nat.sub_self]
    exact BitVec.extractLsb'_eq_self
  · exact extractLsb'_putBits_outside x v (by omega) (by omega)

/-- A value is its fourteen words. -/
theorem eq_of_wordOf_eq {x y : FieldVal} (h : ∀ j : Fin 14, wordOf x j.val = wordOf y j.val) : x = y := by
  refine BitVec.eq_of_getLsbD_eq fun i hi => ?_
  have slice := congrArg (fun w : Word => w.getLsbD (i % 32)) (h ⟨i / 32, by omega⟩)
  have low : i % 32 < 32 := by omega
  simpa [wordOf, low, Nat.div_add_mod] using slice

/-- A word is its four bytes, least significant first (R52). -/
theorem wordOf_eq_bytes (x : FieldVal) (j : Nat) :
    wordOf x j = byteOf x (4 * j + 3) ++ byteOf x (4 * j + 2) ++ byteOf x (4 * j + 1) ++ byteOf x (4 * j) := by
  have start : 32 * j = 8 * (4 * j) := by omega
  unfold wordOf byteOf
  rw [BitVec.extractLsb'_append_extractLsb'_eq_extractLsb' (by omega),
    BitVec.extractLsb'_append_extractLsb'_eq_extractLsb' (by omega),
    BitVec.extractLsb'_append_extractLsb'_eq_extractLsb' (by omega), start]

/-! ### The store of a word -/

theorem State.readF_writeFieldWord_self (s : State) (n : FReg) (j : Fin 14) (w : Word) :
    (s.writeFieldWord n j w).readF n = setWord (s.readF n) j.val w := by
  simp [State.readF]

theorem State.readF_writeFieldWord_other (s : State) {m n : FReg} (j : Fin 14) (w : Word) (h : m ≠ n) :
    (s.writeFieldWord n j w).readF m = s.readF m := by
  have apart : n.val ≠ m.val := fun e => h (Fin.ext e.symm)
  simp [State.readF, apart]

/-- The mark that a store of word `j` sets. -/
theorem getLsbD_wordMark (j k : Fin 14) : (1#14 <<< j.val).getLsbD k.val = decide (k = j) := by
  rw [← BitVec.twoPow_eq, BitVec.getLsbD_twoPow]
  simp [Fin.ext_iff, eq_comm]

/-- The store marks its own word written and keeps the register's other marks. -/
theorem State.written_writeFieldWord_self (s : State) (n : FReg) (j k : Fin 14) (w : Word) :
    (s.writeFieldWord n j w).written[n.val].getLsbD k.val = (decide (k = j) || s.written[n.val].getLsbD k.val) := by
  rw [State.writeFieldWord_written, Vector.getElem_set_self, BitVec.getLsbD_or, getLsbD_wordMark, Bool.or_comm]

theorem State.written_writeFieldWord_other (s : State) {m n : FReg} (j : Fin 14) (w : Word) (h : m ≠ n) :
    (s.writeFieldWord n j w).written[m.val] = s.written[m.val] := by
  have apart : n.val ≠ m.val := fun e => h (Fin.ext e.symm)
  simp [apart]

/-- A register counts as written exactly when all its words have been (20_memory.md R52). -/
theorem State.isWritten_iff (s : State) (n : FReg) :
    s.isWritten n = true ↔ ∀ k : Fin 14, s.written[n.val].getLsbD k.val = true := by
  rw [State.isWritten, beq_iff_eq]
  constructor
  · intro all k
    rw [all, BitVec.getLsbD_allOnes]
    exact decide_eq_true k.isLt
  · intro each
    refine BitVec.eq_of_getLsbD_eq fun k hk => ?_
    rw [each ⟨k, hk⟩, BitVec.getLsbD_allOnes]
    exact (decide_eq_true hk).symm

/-- An idle read of a data word, as a step: the word, and the mark of a read of the register (10_state.md R23). -/
theorem step_readField_idle {s : State} (idle : s.busy = false) (n : FReg) (j : Fin 14) (rest : List HostOp) :
    step { s with inbox := hostRead (fieldOffset n j) :: rest } =
      .next { s with inbox := rest, rdata := s.fieldWord n j, runFault := s.runFault || !s.isWritten n } := by
  rw [step_readField]
  simp only [State.windowRead, State.noteWindowRead, State.windowWord, idle]
  rfl

/-- An idle write to a data word, as a step. -/
theorem step_writeField_idle {s : State} (idle : s.busy = false) (n : FReg) (j : Fin 14) (v : Word)
    (rest : List HostOp) :
    step { s with inbox := hostWrite (fieldOffset n j) v :: rest } =
      .next (({ s with inbox := rest }).writeFieldWord n j v) := by
  rw [step_writeField]
  simp only [State.windowWrite, idle]
  rfl

/-- Settles O23, by what a store leaves of each byte and of each mark. -/
theorem fieldWordLoadAndStore : Obligations.FieldWordLoadAndStore := by
  unfold Obligations.FieldWordLoadAndStore
  intro s n j w rest
  refine ⟨fun idle => ⟨⟨_, step_readField_idle idle n j rest, wordOf_eq_bytes (s.readF n) j⟩,
    _, step_writeField_idle idle n j w rest, ?_, ?_, ?_, ?_, rfl⟩, s.isWritten_iff n⟩
  · intro k hk
    rw [State.readF_writeFieldWord_self]
    exact byteOf_setWord (s.readF n) j w hk
  · intro m other
    exact State.readF_writeFieldWord_other _ j w other
  · intro k
    exact State.written_writeFieldWord_self _ n j k w
  · intro m other
    exact State.written_writeFieldWord_other _ j w other

/-! ### LDF and STF -/

/-- The state after the words `js` of `v` have been stored in F[n]. -/
def State.storeWords (s : State) (n : FReg) (v : FieldVal) (js : List (Fin 14)) : State :=
  js.foldl (fun t j => t.writeFieldWord n j (wordOf v j.val)) s

theorem State.storeWords_cons (s : State) (n : FReg) (v : FieldVal) (j : Fin 14) (js : List (Fin 14)) :
    s.storeWords n v (j :: js) = (s.writeFieldWord n j (wordOf v j.val)).storeWords n v js := rfl

/-- A word of F[n] after the stores. -/
theorem State.wordOf_storeWords (s : State) (n : FReg) (v : FieldVal) (js : List (Fin 14)) (k : Fin 14) :
    wordOf ((s.storeWords n v js).readF n) k.val =
      if k ∈ js then wordOf v k.val else wordOf (s.readF n) k.val := by
  induction js generalizing s with
  | nil => rfl
  | cons j js ih =>
    rw [State.storeWords_cons, ih, State.readF_writeFieldWord_self, wordOf_setWord]
    by_cases later : k ∈ js
    · simp [later]
    · by_cases now : k = j <;> simp [later, now]

/-- A mark of F[n] after the stores. -/
theorem State.written_storeWords (s : State) (n : FReg) (v : FieldVal) (js : List (Fin 14)) (k : Fin 14) :
    (s.storeWords n v js).written[n.val].getLsbD k.val = (decide (k ∈ js) || s.written[n.val].getLsbD k.val) := by
  induction js generalizing s with
  | nil => rfl
  | cons j js ih =>
    rw [State.storeWords_cons, ih, State.written_writeFieldWord_self, ← Bool.or_assoc, Bool.or_comm (decide _)]
    simp

/-- The stores change no other register. -/
theorem State.readF_storeWords_other (s : State) {m n : FReg} (v : FieldVal) (js : List (Fin 14)) (h : m ≠ n) :
    (s.storeWords n v js).readF m = s.readF m := by
  induction js generalizing s with
  | nil => rfl
  | cons j js ih => exact (ih _).trans (s.readF_writeFieldWord_other j _ h)

/-- The stores change no other register's marks. -/
theorem State.written_storeWords_other (s : State) {m n : FReg} (v : FieldVal) (js : List (Fin 14)) (h : m ≠ n) :
    (s.storeWords n v js).written[m.val] = s.written[m.val] := by
  induction js generalizing s with
  | nil => rfl
  | cons j js ih => exact (ih _).trans (s.written_writeFieldWord_other j _ h)

/-- The stores change the field registers and their marks alone. -/
theorem State.storeWords_frame (s : State) (n : FReg) (v : FieldVal) (js : List (Fin 14)) :
    { s.storeWords n v js with f := s.f, written := s.written } = s := by
  induction js generalizing s with
  | nil => rfl
  | cons j js ih =>
    exact congrArg (fun t : State => { t with f := s.f, written := s.written }) (ih (s.writeFieldWord n j _))

/-- All fourteen stores leave the value in F[n], marked written. -/
theorem State.storeWords_all (s : State) (n : FReg) (v : FieldVal) :
    (s.storeWords n v (List.finRange 14)).readF n = v ∧
      (s.storeWords n v (List.finRange 14)).isWritten n = true := by
  constructor
  · refine eq_of_wordOf_eq fun k => ?_
    rw [State.wordOf_storeWords, if_pos (List.mem_finRange k)]
  · rw [State.isWritten_iff]
    intro k
    rw [State.written_storeWords]
    simp

/-- Idle writes of the words `js` of `v` to F[n], as steps. -/
theorem stepN_storeWords {s : State} (idle : s.busy = false) (n : FReg) (v : FieldVal) (js : List (Fin 14))
    (rest : List HostOp) :
    stepN js.length
        { s with inbox := js.map (fun j => hostWrite (fieldOffset n j) (wordOf v j.val)) ++ rest } =
      .next (({ s with inbox := rest }).storeWords n v js) := by
  induction js generalizing s with
  | nil => rfl
  | cons j js ih =>
    exact (stepN_succ js.length (step_writeField_idle idle n j _ _)).trans (ih (s := s.writeFieldWord n j _) idle)

/-- Idle reads of the words `js` of a written register, as steps: the first `k + 1` of them end with the word of the
last one, and change nothing else. -/
theorem stepN_readWords {s : State} (idle : s.busy = false) {n : FReg} (written : s.isWritten n = true)
    (js : List (Fin 14)) (rest : List HostOp) {k : Nat} (hk : k < js.length) :
    stepN (k + 1) { s with inbox := js.map (fun j => hostRead (fieldOffset n j)) ++ rest } =
      .next { s with
        inbox := (js.drop (k + 1)).map (fun j => hostRead (fieldOffset n j)) ++ rest
        rdata := s.fieldWord n js[k] } := by
  induction js generalizing s k with
  | nil => cases hk
  | cons j js ih =>
    have first := step_readField_idle idle n j (js.map (fun j => hostRead (fieldOffset n j)) ++ rest)
    rw [written, Bool.not_true, Bool.or_false] at first
    cases k with
    | zero => exact stepN_succ 0 first
    | succ k =>
      have later := ih (s := { s with rdata := s.fieldWord n j }) idle written (Nat.lt_of_succ_lt_succ hk)
      exact (stepN_succ (k + 1) first).trans later

/-- LDF on an idle engine (30_encoding.md R81). -/
theorem stepN_ldf {s : State} (idle : s.busy = false) (n : FReg) (v : FieldVal) (rest : List HostOp) :
    stepN 14 { s with inbox := ldf n v ++ rest } =
      .next (({ s with inbox := rest }).storeWords n v (List.finRange 14)) := by
  have steps := stepN_storeWords idle n v (List.finRange 14) rest
  rwa [List.length_finRange] at steps

/-- STF of a written register on an idle engine, up to the read of word `j` (R81). -/
theorem stepN_stf {s : State} (idle : s.busy = false) {n : FReg} (written : s.isWritten n = true)
    {rest : List HostOp} (inbox : s.inbox = stf n ++ rest) (j : Fin 14) :
    ∃ u, stepN (j.val + 1) s = .next u ∧ u.rdata = s.fieldWord n j ∧
      { u with inbox := s.inbox, rdata := s.rdata } = s := by
  have read := stepN_readWords idle written (List.finRange 14) rest (k := j.val) (by simp)
  rw [List.getElem_finRange] at read
  exact ⟨_, (congrArg (fun l => stepN (j.val + 1) { s with inbox := l }) inbox).trans read, rfl, rfl⟩

/-- Settles O24: LDF stores all the words of the value, and STF reads a register that holds it and is written. -/
theorem loadThenStoreReturnsTheValue : Obligations.LoadThenStoreReturnsTheValue := by
  unfold Obligations.LoadThenStoreReturnsTheValue
  intro s n v rest idle
  have load := stepN_ldf idle n v (stf n ++ rest)
  obtain ⟨value, written⟩ := State.storeWords_all { s with inbox := stf n ++ rest } n v
  have frame := State.storeWords_frame { s with inbox := stf n ++ rest } n v (List.finRange 14)
  have others (m : FReg) (other : m ≠ n) :=
    State.readF_storeWords_other { s with inbox := stf n ++ rest } v (List.finRange 14) other
  have marks (m : FReg) (other : m ≠ n) :=
    State.written_storeWords_other { s with inbox := stf n ++ rest } v (List.finRange 14) other
  generalize State.storeWords _ n v _ = t at load value written frame others marks
  refine ⟨t, by rw [List.append_assoc]; exact load, value, written, others, marks, frame, fun j => ?_⟩
  have still : t.busy = false := (congrArg State.busy frame).trans idle
  obtain ⟨u, read, word, kept⟩ := stepN_stf still written (congrArg State.inbox frame) j
  exact ⟨u, read, word.trans (congrArg (wordOf · j.val) value), kept⟩

end Sys2Proof.Machine
end

section
/-! PROOFS. The decoder and the encoder (O1 to O4): a word is its fields, an opcode has one row of the map, and a word
decodes to the command whose fields it holds. -/

namespace Sys2Proof

open Claims Machine

/-! ### A word and its fields -/

/-- The fields cut out of the word of six fields are the six (R70). -/
@[simp] theorem CmdFields.ofWord_toWord (f : CmdFields) : CmdFields.ofWord f.toWord = f := by
  obtain ⟨opc, rd, rs1, rs2, b, rsv⟩ := f
  simp only [CmdFields.ofWord, CmdFields.toWord, CmdFields.mk.injEq]
  refine ⟨BitVec.extractLsb'_append_eq_right, ?_, ?_, ?_, ?_, ?_⟩
  · rw [BitVec.extractLsb'_append_eq_of_le (by decide)]
    exact BitVec.extractLsb'_append_eq_right
  · iterate 2 rw [BitVec.extractLsb'_append_eq_of_le (by decide)]
    exact BitVec.extractLsb'_append_eq_right
  · iterate 3 rw [BitVec.extractLsb'_append_eq_of_le (by decide)]
    exact BitVec.extractLsb'_append_eq_right
  · iterate 4 rw [BitVec.extractLsb'_append_eq_of_le (by decide)]
    exact BitVec.extractLsb'_append_eq_right
  · iterate 5 rw [BitVec.extractLsb'_append_eq_of_le (by decide)]
    exact BitVec.extractLsb'_eq_self

/-- The word of the fields cut out of a word is the word: the six leave no bit out (R70). -/
@[simp] theorem CmdFields.toWord_ofWord (w : Word) : (CmdFields.ofWord w).toWord = w := by
  simp only [CmdFields.ofWord, CmdFields.toWord]
  iterate 5 rw [BitVec.extractLsb'_append_extractLsb'_eq_extractLsb' (by decide)]
  exact BitVec.extractLsb'_eq_self

/-- Two lists of six fields with the same word are the same. -/
theorem CmdFields.toWord_inj {f g : CmdFields} : f.toWord = g.toWord ↔ f = g := by
  constructor
  · intro same
    rw [← ofWord_toWord f, same, ofWord_toWord]
  · exact congrArg toWord

/-- The conjunction of two words, field by field. -/
theorem CmdFields.toWord_and (f g : CmdFields) : f.toWord &&& g.toWord =
    (CmdFields.mk (f.opc &&& g.opc) (f.rd &&& g.rd) (f.rs1 &&& g.rs1) (f.rs2 &&& g.rs2) (f.b &&& g.b)
      (f.rsv &&& g.rsv)).toWord := by
  unfold CmdFields.toWord
  iterate 5 rw [BitVec.and_append]

/-! ### The mask column, field by field -/

/-- The fields a mask of R72 looks at: all ones where the shape has the opcode or a reserved-zero field (R73). -/
def CmdShape.maskFields : CmdShape → CmdFields
  | .none  => ⟨.allOnes 8, .allOnes 4, .allOnes 4, .allOnes 4, .allOnes 1, .allOnes 11⟩
  | .two   => ⟨.allOnes 8, 0, 0, .allOnes 4, .allOnes 1, .allOnes 11⟩
  | .three => ⟨.allOnes 8, 0, 0, 0, .allOnes 1, .allOnes 11⟩
  | .swap  => ⟨.allOnes 8, .allOnes 4, 0, 0, 0, .allOnes 11⟩

/-- Under its shape's mask a word is the bare opcode exactly when its reserved-zero fields are zero. -/
theorem CmdShape.and_mask_eq_iff (k : CmdShape) (f : CmdFields) :
    f.toWord &&& k.maskFields.toWord = (⟨f.opc, 0, 0, 0, 0, 0⟩ : CmdFields).toWord ↔ f.reservedZero k = true := by
  rw [CmdFields.toWord_and, CmdFields.toWord_inj]
  cases k <;> simp [maskFields, CmdFields.reservedZero, and_assoc, -BitVec.reduceAllOnes]

/-! ### The opcode map -/

/-- The opcode map's row for an opcode. -/
def rowOf (o : BitVec 8) : Option OpRow := opcodeMap.find? fun r => r.opc == o

theorem mem_of_rowOf {o : BitVec 8} {r : OpRow} (h : rowOf o = some r) : r ∈ opcodeMap ∧ r.opc = o :=
  ⟨List.mem_of_find?_eq_some h, by simpa using List.find?_some h⟩

/-- Every row's opcode is mapped, and its mask and match columns are those of the opcode's shape (R72, R73). -/
theorem opcodeMap_columns : ∀ r ∈ opcodeMap, mappedOpc r.opc.toNat ∧
    (opcShape r.opc).map (fun k => k.maskFields.toWord) = some r.mask ∧
    r.value = (⟨r.opc, 0, 0, 0, 0, 0⟩ : CmdFields).toWord := by decide

/-- A reserved opcode has no shape. -/
theorem opcShape_of_reserved {o : BitVec 8} (reserved : ¬ mappedOpc o.toNat) : opcShape o = none := by
  unfold opcShape
  split
  case h_14 => rfl
  all_goals omega

/-- An opcode has a row exactly when it is mapped. -/
theorem rowOf_eq_none {o : BitVec 8} : rowOf o = none ↔ ¬ mappedOpc o.toNat := by
  constructor
  · intro none mapped
    have other (r : OpRow) (hr : r ∈ opcodeMap) : r.opc ≠ o := by
      simpa using List.find?_eq_none.mp none r hr
    simp only [opcodeMap, List.forall_mem_cons, ne_eq, BitVec.toNat_eq, BitVec.reduceToNat] at other
    omega
  · intro reserved
    cases row : rowOf o with
    | none => rfl
    | some r =>
      obtain ⟨mem, rfl⟩ := mem_of_rowOf row
      exact absurd (opcodeMap_columns r mem).1 reserved

/-- The mask and match columns accept a word of the row's opcode exactly when it is well-formed. -/
theorem and_mask_eq_value_iff {r : OpRow} {f : CmdFields} (mem : r ∈ opcodeMap) (opc : r.opc = f.opc) :
    f.toWord &&& r.mask = r.value ↔ f.wellFormed = true := by
  obtain ⟨-, mask, value⟩ := opcodeMap_columns r mem
  obtain ⟨k, shape, mask⟩ := Option.map_eq_some_iff.mp mask
  rw [← mask, value, opc, k.and_mask_eq_iff, CmdFields.wellFormed, ← opc, shape]

/-! ### The decoder -/

/-- A word whose opcode is reserved (R74). -/
theorem decodeWord_of_no_row {w : Word} (row : rowOf (CmdFields.ofWord w).opc = none) :
    decodeWord w = .error .illegalOpcode := by
  change opcodeMap.find? (fun r => r.opc == w.extractLsb' 0 8) = none at row
  rw [decodeWord, row]

/-- A word whose opcode is mapped: it decodes by its row if it is well-formed (R75). -/
theorem decodeWord_of_row {w : Word} {r : OpRow} (row : rowOf (CmdFields.ofWord w).opc = some r) :
    decodeWord w = if (CmdFields.ofWord w).wellFormed = true then .ok (r.build (CmdFields.ofWord w))
      else .error .reservedField := by
  obtain ⟨mem, opc⟩ := mem_of_rowOf row
  have accepts := and_mask_eq_value_iff mem opc
  rw [CmdFields.toWord_ofWord] at accepts
  change opcodeMap.find? (fun r => r.opc == w.extractLsb' 0 8) = some r at row
  simp only [decodeWord, row, accepts]

/-- A word that decodes is well-formed and decodes by its opcode's row. -/
theorem decodeWord_eq_ok {w : Word} {i : Instr} (h : decodeWord w = .ok i) :
    (CmdFields.ofWord w).wellFormed = true ∧
      ∃ r, rowOf (CmdFields.ofWord w).opc = some r ∧ r.build (CmdFields.ofWord w) = i := by
  cases row : rowOf (CmdFields.ofWord w).opc with
  | none => simp [decodeWord_of_no_row row] at h
  | some r =>
    rw [decodeWord_of_row row] at h
    split at h
    · exact ⟨‹_›, r, rfl, Except.ok.inj h⟩
    · cases h

/-! ### A command and its fields -/

/-- A command's fields hold its opcode, and those it does not use are zero (R73). -/
theorem Instr.fields_statement (i : Instr) : Laws.Encoding.Statement i := by
  cases i with
  | nop => exact Laws.Encoding.nop
  | fnorm rd rs1 => exact Laws.Encoding.fnorm rd rs1
  | fcopy rd rs1 => exact Laws.Encoding.fcopy rd rs1
  | fcswap rs1 rs2 b => exact Laws.Encoding.fcswap rs1 rs2 b
  | fadd rd rs1 rs2 => exact Laws.Encoding.fadd rd rs1 rs2
  | fsub rd rs1 rs2 => exact Laws.Encoding.fsub rd rs1 rs2
  | fmulc rd rs1 => exact Laws.Encoding.fmulc rd rs1
  | fmul rd rs1 rs2 => exact Laws.Encoding.fmul rd rs1 rs2
  | fsqr rd rs1 => exact Laws.Encoding.fsqr rd rs1
  | finv rd rs1 => exact Laws.Encoding.finv rd rs1
  | clamp rd rs1 => exact Laws.Encoding.clamp rd rs1
  | ladder rd rs1 rs2 => exact Laws.Encoding.ladder rd rs1 rs2
  | x448 rd rs1 rs2 => exact Laws.Encoding.x448 rd rs1 rs2

/-- The row of a command's opcode builds the command from its fields. -/
theorem Instr.rowOf_opc (i : Instr) : ∃ r, rowOf i.opc = some r ∧ r.build i.fields = i := by
  cases i with
  | fcswap rs1 rs2 b => cases b <;> exact ⟨_, rfl, rfl⟩
  | _ => exact ⟨_, rfl, rfl⟩

/-- The swap bit is the field B. -/
theorem CmdFields.ofBool_bit (f : CmdFields) : BitVec.ofBool f.bit = f.b := by
  unfold bit
  generalize f.b = b
  revert b
  decide

/-- The reserved-zero fields of a well-formed word's shape are zero. -/
theorem CmdFields.reservedZero_of_wellFormed {f : CmdFields} {k : CmdShape} (shape : opcShape f.opc = some k)
    (wf : f.wellFormed = true) : f.reservedZero k = true := by
  rwa [wellFormed, shape] at wf

theorem CmdFields.eq_fieldsNone {o : BitVec 8} (shape : opcShape o = some .none) (f : CmdFields) (opc : f.opc = o)
    (wf : f.wellFormed = true) : ⟨o, 0, 0, 0, 0, 0⟩ = f := by
  have zero := reservedZero_of_wellFormed (opc ▸ shape) wf
  obtain ⟨_, rd, rs1, rs2, b, rsv⟩ := f
  simp_all [reservedZero]

theorem CmdFields.eq_fieldsTwo {o : BitVec 8} (shape : opcShape o = some .two) (f : CmdFields) (opc : f.opc = o)
    (wf : f.wellFormed = true) : fieldsTwo o f.regD f.reg1 = f := by
  have zero := reservedZero_of_wellFormed (opc ▸ shape) wf
  obtain ⟨_, rd, rs1, rs2, b, rsv⟩ := f
  simp_all [reservedZero, fieldsTwo, regD, reg1]

theorem CmdFields.eq_fieldsThree {o : BitVec 8} (shape : opcShape o = some .three) (f : CmdFields) (opc : f.opc = o)
    (wf : f.wellFormed = true) : fieldsThree o f.regD f.reg1 f.reg2 = f := by
  have zero := reservedZero_of_wellFormed (opc ▸ shape) wf
  obtain ⟨_, rd, rs1, rs2, b, rsv⟩ := f
  simp_all [reservedZero, fieldsThree, regD, reg1, reg2]

theorem CmdFields.eq_fieldsSwap {o : BitVec 8} (shape : opcShape o = some .swap) (f : CmdFields) (opc : f.opc = o)
    (wf : f.wellFormed = true) : ⟨o, 0, .ofFin f.reg1, .ofFin f.reg2, .ofBool f.bit, 0⟩ = f := by
  have zero := reservedZero_of_wellFormed (opc ▸ shape) wf
  rw [ofBool_bit]
  obtain ⟨_, rd, rs1, rs2, b, rsv⟩ := f
  simp_all [reservedZero, reg1, reg2]

/-- The command a row builds from well-formed fields has those fields: row by row, by the shape of its opcode. -/
theorem CmdFields.fields_build :
    ∀ r ∈ opcodeMap, ∀ f : CmdFields, f.opc = r.opc → f.wellFormed = true → (r.build f).fields = f := by
  simp only [opcodeMap, List.forall_mem_cons]
  exact ⟨eq_fieldsNone rfl, eq_fieldsTwo rfl, eq_fieldsTwo rfl, eq_fieldsSwap rfl, eq_fieldsThree rfl,
    eq_fieldsThree rfl, eq_fieldsTwo rfl, eq_fieldsThree rfl, eq_fieldsTwo rfl, eq_fieldsTwo rfl, eq_fieldsTwo rfl,
    eq_fieldsThree rfl, eq_fieldsThree rfl, nofun⟩

/-- A word decodes to a command exactly when it holds the command's fields. -/
theorem decodeWord_eq_ok_iff {w : Word} {i : Instr} : decodeWord w = .ok i ↔ i.fields = CmdFields.ofWord w := by
  constructor
  · intro h
    obtain ⟨wf, r, row, rfl⟩ := decodeWord_eq_ok h
    obtain ⟨mem, opc⟩ := mem_of_rowOf row
    exact CmdFields.fields_build r mem _ opc.symm wf
  · intro h
    obtain ⟨opc, wf⟩ := i.fields_statement
    obtain ⟨r, row, build⟩ := i.rowOf_opc
    rw [← opc, h] at row
    rw [decodeWord_of_row row, ← h, if_pos wf, build]

/-- Settles O2: the word of a command holds the command's fields. -/
theorem decodeOfEncode : Obligations.DecodeOfEncode := by
  unfold Obligations.DecodeOfEncode
  intro i
  exact decodeWord_eq_ok_iff.mpr (CmdFields.ofWord_toWord i.fields).symm

/-- Settles O3: a word is the word of its fields, which are those of the command it decodes to. -/
theorem encodeOfDecode : Obligations.EncodeOfDecode := by
  unfold Obligations.EncodeOfDecode
  intro w i h
  rw [encode, decodeWord_eq_ok_iff.mp h, CmdFields.toWord_ofWord]

/-- Settles O4: a well-formed word has a mapped opcode, and its row decodes it. -/
theorem masksAcceptReservedZeroWords : Obligations.MasksAcceptReservedZeroWords := by
  unfold Obligations.MasksAcceptReservedZeroWords
  intro w
  constructor
  · rintro ⟨i, h⟩
    exact (decodeWord_eq_ok h).1
  · intro wf
    cases row : rowOf (CmdFields.ofWord w).opc with
    | none =>
      rw [CmdFields.wellFormed, opcShape_of_reserved (rowOf_eq_none.mp row)] at wf
      cases wf
    | some r => exact ⟨_, by rw [decodeWord_of_row row, if_pos wf]⟩

/-- Settles O1: the five words are the encodings, and decode as every encoding does. -/
theorem workedEncodings : Obligations.WorkedEncodings := by
  unfold Obligations.WorkedEncodings
  intro iw listed
  have word : encode iw.1 = iw.2 := by
    revert iw
    decide
  exact ⟨word, word ▸ decodeOfEncode iw.1⟩

end Sys2Proof
end

section
/-! PROOFS. A command from its word to its completion (O5 to O7, O10, O11): the decoder by numbers, the outcomes of a
write to CMD, and the steps of a busy engine until the pending command completes. -/

namespace Sys2Proof.Machine

open Sys2Proof.Claims

/-! ### The decoder by numbers -/

/-- The mask and match columns of R72 are functions of the opcode. -/
theorem opcodeMap_columns_by_number :
    ∀ r ∈ opcodeMap, r.mask = maskOf r.opc.toNat ∧ r.value = BitVec.ofNat 32 r.opc.toNat := by decide

/-- The opcode field as a number. -/
theorem ofWord_opc_toNat (w : Word) : (CmdFields.ofWord w).opc.toNat = opcOf w := by
  simp [CmdFields.ofWord, opcOf]

/-- The registers and the swap bit of a word as numbers (R70, R71). -/
theorem ofWord_operands (w : Word) :
    (CmdFields.ofWord w).regD = Fin.ofNat 16 (w.toNat / 2 ^ 8) ∧
    (CmdFields.ofWord w).reg1 = Fin.ofNat 16 (w.toNat / 2 ^ 12) ∧
    (CmdFields.ofWord w).reg2 = Fin.ofNat 16 (w.toNat / 2 ^ 16) ∧
    (CmdFields.ofWord w).bit = w.toNat.testBit 20 := by
  have reg (k : Nat) : (w.extractLsb' k 4).toFin = Fin.ofNat 16 (w.toNat / 2 ^ k) := by
    apply Fin.ext
    simp [Nat.shiftRight_eq_div_pow]
  have bit (b : BitVec 1) : (b == 1) = b[0] := by
    revert b
    decide
  exact ⟨reg 8, reg 12, reg 16, (bit _).trans (by simp [CmdFields.ofWord, BitVec.getLsbD])⟩

/-- The command a row builds from the fields of a word with its opcode, by numbers. -/
theorem opcodeMap_build_ofWord (w : Word) :
    ∀ r ∈ opcodeMap, opcOf w = r.opc.toNat → r.build (CmdFields.ofWord w) = commandOf w := by
  obtain ⟨rd, rs1, rs2, b⟩ := ofWord_operands w
  unfold commandOf
  rw [← rd, ← rs1, ← rs2, ← b]
  intro r mem opc
  rw [opc]
  clear opc
  revert r
  simp [opcodeMap]

/-- The decoder by numbers: the opcode first, then the mask (30_encoding.md R72, R76). -/
theorem decodeWord_eq (w : Word) :
    decodeWord w =
      if mappedOpc (opcOf w) then
        if w &&& maskOf (opcOf w) = BitVec.ofNat 32 (opcOf w) then .ok (commandOf w) else .error .reservedField
      else .error .illegalOpcode := by
  have number := ofWord_opc_toNat w
  cases row : rowOf (CmdFields.ofWord w).opc with
  | none => rw [decodeWord_of_no_row row, if_neg (number ▸ rowOf_eq_none.mp row)]
  | some r =>
    obtain ⟨mem, opc⟩ := mem_of_rowOf row
    rw [← opc] at number
    have accepts := and_mask_eq_value_iff mem opc
    obtain ⟨mask, value⟩ := opcodeMap_columns_by_number r mem
    rw [CmdFields.toWord_ofWord, mask, value, number] at accepts
    have mapped : mappedOpc (opcOf w) := number ▸ (opcodeMap_columns r mem).1
    rw [decodeWord_of_row row, opcodeMap_build_ofWord w r mem number.symm, if_pos mapped]
    simp only [accepts]

/-! ### A word written to CMD -/

/-- Settles O5: BUSY is looked at first, then the word is decoded. -/
theorem commandWriteOutcomes : Obligations.CommandWriteOutcomes := by
  unfold Obligations.CommandWriteOutcomes
  intro s w rest
  by_cases busy : s.busy = true
  · refine ⟨s.runFault, ?_⟩
    rw [step_writeCmd_busy busy]
    exact congrArg _ (if_pos busy).symm
  · refine ⟨s.runFault || (sourcesOf (commandOf w)).any fun n => !s.isWritten n, ?_⟩
    rw [step_writeCmd, State.presentCommand, decodeWord_eq]
    simp only [busy]
    split_ifs <;> rfl

/-! ### The engine's turn -/

/-- With a command in progress the engine's turn is its completion. -/
theorem engineTurn_busy {s : State} {i : Instr} (busy : s.busy = true) (pend : s.pend = some i) :
    engineTurn s = exec i s := by
  rw [engineTurn, busy, pend]

/-- The order token with a command in progress, as a step (20_memory.md R63). -/
theorem step_engine_busy {s : State} {i : Instr} (rest : List HostOp) (busy : s.busy = true) (pend : s.pend = some i) :
    step { s with inbox := .engine :: rest } = exec i { s with inbox := rest } :=
  engineTurn_busy (s := { s with inbox := rest }) busy pend

/-- A read of STATUS by WAIT while its polls last, as a step. -/
theorem step_poll_busy {s : State} (n : Nat) (rest : List HostOp) (busy : s.busy = true) :
    step { s with inbox := .wait (n + 1) :: rest } =
      .next { s with inbox := .wait n :: rest, rdata := s.statusWord } :=
  if_pos busy

/-- With a command in progress and no poll left, WAIT lets it complete. -/
theorem step_wait_zero_busy {s : State} {i : Instr} (rest : List HostOp) (busy : s.busy = true)
    (pend : s.pend = some i) :
    step { s with inbox := .wait 0 :: rest } = exec i { s with inbox := .wait 0 :: rest } :=
  (if_pos busy).trans (engineTurn_busy (s := { s with inbox := .wait 0 :: rest }) busy pend)

/-- WAIT ends with a read of STATUS on an idle engine. -/
theorem step_wait_idle {s : State} (n : Nat) (rest : List HostOp) (idle : s.busy = false) :
    step { s with inbox := .wait n :: rest } = .next { s with inbox := rest, rdata := s.statusWord } :=
  if_neg (by simp [idle])

/-- Settles O6: each of the three is the engine's turn. -/
theorem stepRunsPendingCommand : Obligations.StepRunsPendingCommand := by
  unfold Obligations.StepRunsPendingCommand
  intro s i rest busy pend
  exact ⟨engineTurn_busy (s := { s with inbox := [] }) busy pend, step_engine_busy rest busy pend,
    step_wait_zero_busy rest busy pend⟩

/-! ### A placed word -/

/-- Four bytes of a number, the least significant first, are its 32-bit word (20_memory.md R55). -/
theorem ofNat_eq_bytes (w : Nat) :
    BitVec.ofNat 8 (w / 256 ^ 3) ++ BitVec.ofNat 8 (w / 256 ^ 2) ++ BitVec.ofNat 8 (w / 256 ^ 1) ++
      BitVec.ofNat 8 (w / 256 ^ 0) = BitVec.ofNat 32 w := by
  apply BitVec.eq_of_toNat_eq
  simp only [toNat_append_eq_add, BitVec.toNat_ofNat]
  omega

/-- A 32-bit table word decodes as the command word of its number. -/
theorem decodeTableWord_eq_some {w : Nat} {i : Instr} (h : decodeTableWord 32 w = some i) :
    decodeWord (BitVec.ofNat 32 (w % 2 ^ 32)) = .ok i := by
  unfold decodeTableWord at h
  dsimp only at h
  split at h
  next decodes =>
    cases h
    rw [← ofNat_eq_bytes]
    exact decodes
  next => cases h

/-- Settles O7: the placed word is accepted, and the order token stands next. -/
theorem placedWordRunsDecodedInstruction : Obligations.PlacedWordRunsDecodedInstruction := by
  unfold Obligations.PlacedWordRunsDecodedInstruction
  intro s w i small decodes
  have legal := decodeTableWord_eq_some decodes
  have placed : s.withFetchWord 32 w = { s with
      pend := some i, busy := true, done := false, lastcmd := BitVec.ofNat 32 w, inbox := .engine :: s.inbox
      runFault := s.runFault || (sourcesOf i).any fun n => !s.isWritten n } := by
    simp only [State.withFetchWord, State.presentCommand, legal]
    rw [Nat.mod_eq_of_lt small]
    rfl
  rw [placed]
  exact step_engine_busy (s := { s with
    pend := some i, busy := true, done := false, lastcmd := BitVec.ofNat 32 w
    runFault := s.runFault || (sourcesOf i).any fun n => !s.isWritten n }) s.inbox rfl rfl

/-! ### From acceptance to completion -/

/-- `s` with the status registers, the last word read and the operations to come of `q`: all that an operation of the
outside can change while a command is in progress and no reset comes (20_memory.md R59, R64). -/
def State.withStatus (s q : State) : State :=
  { s with
    done := q.done, err := q.err, errcode := q.errcode, errinfo := q.errinfo, ie := q.ie
    inbox := q.inbox, rdata := q.rdata }

/-- A completion uses nothing of what an operation of the outside can change while it is pending. -/
theorem exec_withStatus {i : Instr} {s u : State} (q : State) (run : exec i s = .next u) :
    exec i (s.withStatus q) = .next { u.withStatus q with done := true } := by
  cases i <;> cases run <;> rfl

theorem raiseError_withStatus (s : State) (c : ErrCause) (info : Word) :
    s.raiseError c info = s.withStatus (s.raiseError c info) := by
  unfold State.raiseError
  split <;> rfl

/-- A legal write to a busy engine changes status registers only. -/
theorem windowWrite_withStatus {s : State} (busy : s.busy = true) (r : WindowReg) (v info : Word) :
    s.windowWrite r v info = s.withStatus (s.windowWrite r v info) := by
  rcases windowWrite_cases s r v info with
    ⟨-, e⟩ | ⟨-, e⟩ | ⟨-, e⟩ | ⟨n, j, -, -, e⟩ | ⟨n, j, -, idle, -⟩ | ⟨-, e⟩
  · rw [e]
    rfl
  · rw [e]
    rfl
  · rw [e, State.presentCommand, if_pos busy]
    exact raiseError_withStatus s _ _
  · rw [e]
    exact raiseError_withStatus s _ _
  · exact absurd (idle.symm.trans busy) (by decide)
  · rw [e]
    rfl

/-- A legal read of a busy engine changes the word read only. -/
theorem windowRead_withStatus {s : State} (busy : s.busy = true) (r : WindowReg) :
    s.windowRead r = s.withStatus (s.windowRead r) := by
  cases r with
  | field n j =>
    rw [windowRead_field_busy busy]
    rfl
  | _ => rfl

/-- An access of a busy engine changes status registers and the word read only. -/
theorem windowAccess_withStatus {s : State} (busy : s.busy = true) (a : Access) :
    s.windowAccess a = s.withStatus (s.windowAccess a) := by
  rcases windowAccess_cases s a with ⟨-, -, e⟩ | ⟨-, v, -, e⟩ | ⟨-, -, e⟩ | ⟨-, v, -, e⟩ <;> rw [e]
  · exact windowRead_withStatus busy _
  · exact windowWrite_withStatus busy _ v _
  · exact congrArg (·.respond 0) (raiseError_withStatus s _ _)
  · exact raiseError_withStatus s _ _

/-- A single step, as a run. -/
theorem stepN_one (s : State) : stepN 1 s = step s := by
  unfold stepN
  cases step s <;> rfl

/-- The polls of WAIT while a command is in progress, before any number of steps: they change the word read only. -/
theorem stepN_polls {s : State} (busy : s.busy = true) (n : Nat) (rest : List HostOp) :
    ∃ d, ∀ k, stepN (k + n) { s with inbox := .wait n :: rest } =
      stepN k { s with inbox := .wait 0 :: rest, rdata := d } := by
  induction n generalizing s with
  | zero => exact ⟨s.rdata, fun k => rfl⟩
  | succ n ih =>
    obtain ⟨d, polls⟩ := ih (s := { s with rdata := s.statusWord }) busy
    exact ⟨d, fun k => (stepN_succ (k + n) (step_poll_busy n rest busy)).trans (polls k)⟩

/-- WAIT with a command in progress: the polls, the completion, and one read of STATUS after it. -/
theorem stepN_wait {s u : State} {i : Instr} (n : Nat) (rest : List HostOp) (busy : s.busy = true)
    (pend : s.pend = some i) (run : exec i { s with inbox := rest } = .next u) :
    stepN (n + 2) { s with inbox := .wait n :: rest } = .next { u with rdata := u.statusWord } := by
  obtain ⟨d, polls⟩ := stepN_polls busy n rest
  have done := completed_of_exec run
  have inbox : u.inbox = rest := exec_inbox run
  have completion : step { s with inbox := .wait 0 :: rest, rdata := d } =
      .next { u with inbox := .wait 0 :: rest, rdata := d } := by
    rw [step_wait_zero_busy (s := { s with rdata := d }) rest busy pend]
    have moved := exec_withStatus { s with inbox := .wait 0 :: rest, rdata := d } run
    simpa [State.withStatus, done.err, done.errcode, done.errinfo, done.ie, done.done] using moved
  have last := step_wait_idle (s := { u with rdata := d }) 0 rest done.busy
  rw [Nat.add_comm, polls, stepN_succ 1 completion, stepN_one, last, ← inbox]
  rfl

/-- The two lowest bits of a word put together from its parts. -/
theorem getElem_append_ofBool {m : Nat} (x : BitVec m) (d b : Bool) :
    (x ++ BitVec.ofBool d ++ BitVec.ofBool b)[0] = b ∧ (x ++ BitVec.ofBool d ++ BitVec.ofBool b)[1] = d := by
  simp [BitVec.getElem_append]

/-- BUSY and DONE in the STATUS word (10_state.md R24). -/
theorem statusWord_busy_done (s : State) : s.statusWord[0] = s.busy ∧ s.statusWord[1] = s.done :=
  getElem_append_ofBool (0#24 ++ s.errcode ++ 0#1 ++ BitVec.ofBool s.err) s.done s.busy

/-- Settles O11, by the state that WAIT ends in. -/
theorem waitEndsIdle : Obligations.WaitEndsIdle := by
  unfold Obligations.WaitEndsIdle
  intro s i n rest busy pend
  obtain ⟨u, run, done⟩ := exec_completed i { s with inbox := rest }
  obtain ⟨bit0, bit1⟩ := statusWord_busy_done u
  exact ⟨{ u with rdata := u.statusWord }, u, stepN_wait n rest busy pend run, run, exec_inbox run, done.busy,
    bit0.trans done.busy, bit1.trans done.done, rfl, rfl, done.err, done.lastcmd⟩

/-- How the wait for the pending command `i` of `s` ends after `k` steps: by its completion, or by a reset that was
among the operations to come. -/
inductive PendingEnds (s : State) (i : Instr) (k : Nat) : Prop
  | completion (q : State) (run : stepN k s = exec i (s.withStatus q)) : PendingEnds s i k
  | reset (t : State) (listed : .reset ∈ s.inbox) (run : stepN k s = .next t.applyReset) : PendingEnds s i k

/-- An access comes before the wait's end. -/
theorem PendingEnds.access {s : State} {i : Instr} {a : Access} {rest : List HostOp} {k : Nat} (busy : s.busy = true)
    (inside : a.off < windowSize)
    (ends : PendingEnds { State.windowAccess { s with inbox := rest } a with inbox := rest } i k) :
    PendingEnds { s with inbox := .access a :: rest } i (k + 1) := by
  have now : ({ s with inbox := rest } : State).busy = true := busy
  have first := step_access s rest inside
  have moved : (State.windowAccess { s with inbox := rest } a).inbox = rest := (OperandsKept.windowAccess now a).inbox
  rw [windowAccess_withStatus now a] at first ends
  generalize State.windowAccess _ a = t at first ends moved
  subst moved
  cases ends with
  | completion q run => exact .completion q ((stepN_succ k first).trans run)
  | reset u listed run => exact .reset u (List.mem_cons_of_mem _ listed) ((stepN_succ k first).trans run)

/-- The wait ends after at most the cost of the operations to come, plus one step. -/
theorem pendingEnds_of_busy {s : State} {i : Instr} (busy : s.busy = true) (pend : s.pend = some i) (l : List HostOp)
    (inside : InWindow l) :
    ∃ k ≤ (l.map opCost).sum + 1, PendingEnds { s with inbox := l } i k := by
  induction l generalizing s with
  | nil =>
    have turn := engineTurn_busy (s := { s with inbox := [] }) busy pend
    exact ⟨1, by simp, .completion { s with inbox := [] } ((stepN_one _).trans turn)⟩
  | cons op rest ih =>
    rw [List.map_cons, List.sum_cons]
    cases op with
    | engine =>
      have turn := step_engine_busy rest busy pend
      exact ⟨1, by omega, .completion { s with inbox := rest } ((stepN_one _).trans turn)⟩
    | wait n =>
      obtain ⟨d, polls⟩ := stepN_polls busy n rest
      have turn := step_wait_zero_busy (s := { s with rdata := d }) rest busy pend
      refine ⟨1 + n, by simp only [opCost]; omega, .completion { s with inbox := .wait 0 :: rest, rdata := d } ?_⟩
      exact (polls 1).trans ((stepN_one _).trans turn)
    | reset => exact ⟨1, by omega, .reset _ (by simp) ((stepN_one _).trans (step_reset s rest))⟩
    | access a =>
      have now : ({ s with inbox := rest } : State).busy = true := busy
      have kept := OperandsKept.windowAccess now a
      obtain ⟨k, bound, ends⟩ := ih (kept.busy.trans busy) (kept.pend.trans pend)
        fun b mem => inside b (List.mem_cons_of_mem _ mem)
      exact ⟨k + 1, by simp only [opCost]; omega, ends.access busy (inside a List.mem_cons_self)⟩

/-- Settles O10, by how the wait for the pending command ends. -/
theorem acceptedCommandCompletes : Obligations.AcceptedCommandCompletes := by
  unfold Obligations.AcceptedCommandCompletes
  constructor
  · intro s inv busy inside
    obtain ⟨i, pend⟩ := Option.isSome_iff_exists.mp (inv.busy_pend.symm.trans busy)
    obtain ⟨k, bound, ends⟩ := pendingEnds_of_busy busy pend s.inbox inside
    refine ⟨k, bound, ?_⟩
    cases ends with
    | completion q run =>
      obtain ⟨t, next, done⟩ := exec_completed i (s.withStatus q)
      exact ⟨t, run.trans next, done.busy⟩
    | reset t _ run => exact ⟨_, run, rfl⟩
  · intro s i busy pend inside noReset
    obtain ⟨k, bound, ends⟩ := pendingEnds_of_busy busy pend s.inbox inside
    cases ends with
    | completion q run =>
      obtain ⟨u, next, done⟩ := exec_completed i s
      exact ⟨k, bound, _, u, run.trans (exec_withStatus q next), next, done.busy, rfl, done.pend, rfl, rfl, rfl, rfl,
        done.lastcmd⟩
    | reset t listed _ => exact absurd listed noReset

end Sys2Proof.Machine
end

section
/-! PROOFS. The representatives of a result and the carry fold (O39, O40; 40_field_arith.md R100 to R102, R116). -/

set_option exponentiation.threshold 1000

namespace Sys2Proof.Machine

/-! ### The two representatives -/

/-- A value is congruent to the true result exactly when it leaves the residue. -/
theorem congruent_iff {v : Nat} {c : RepCall} : (v : Int) % p = trueResult c % p ↔ v % p = residue c := by
  rw [← residue_cast]
  norm_cast

/-- A value below p is its own residue, and any other is its residue plus p (R100). -/
theorem val_cases (x : FieldVal) :
    (val x < p ∧ val x = val x % p) ∨ (p ≤ val x ∧ val x = val x % p + p) := by
  have bound : val x < 2 ^ 448 := x.isLt
  unfold p
  omega

/-- A residue's second representative is below 2^448 up to the residue 2^224 (R100). -/
theorem residue_add_lt_iff (c : RepCall) : residue c + p < 2 ^ 448 ↔ residue c ≤ 2 ^ 224 := by
  have top := p_add
  omega

theorem val_rep_mod (P : PRep) (c : RepCall) : val (rep P c) % p = residue c := by
  have small := Nat.mod_eq_of_lt (residue_lt c)
  rcases val_rep_cases P c with e | ⟨-, -, e⟩
  · rw [e, small]
  · rw [e, Nat.add_mod_right, small]

/-- Every P_REP obeys the law (R101). -/
theorem rep_lawful (P : PRep) (c : RepCall) : (val (rep P c) : Int) % p = trueResult c % p :=
  congruent_iff.mpr (val_rep_mod P c)

/-- A lawful value is the result of every P_REP that takes the second representative just when the value does. -/
theorem rep_eq_of_lawful {P : PRep} {c : RepCall} {x : FieldVal} (law : (val x : Int) % p = trueResult c % p)
    (choice : P c = true ↔ p ≤ val x) : rep P c = x := by
  have bound : val x < 2 ^ 448 := x.isLt
  have residue_x := congruent_iff.mp law
  simp only [rep, choice]
  rcases val_cases x with ⟨low, e⟩ | ⟨high, e⟩ <;> rw [residue_x] at e
  · rw [if_neg (by omega), ← e, enc_val]
  · rw [if_pos (by omega), ← e, enc_val]

/-- A residue above 2^224 has one representative. -/
theorem rep_of_large_residue (P : PRep) {c : RepCall} (large : 2 ^ 224 < residue c) :
    rep P c = enc (residue c) := by
  have none : ¬ residue c + p < 2 ^ 448 := by rw [residue_add_lt_iff]; omega
  exact if_neg fun second => none second.1

/-- Both representatives of a residue up to 2^224 occur. -/
theorem rep_of_small_residue {c : RepCall} (small : residue c ≤ 2 ^ 224) :
    rep (fun _ => true) c ≠ rep (fun _ => false) c := by
  have second := (residue_add_lt_iff c).mpr small
  intro same
  have e := congrArg val same
  simp only [rep, second, and_true, and_false, if_true, if_false, Bool.false_eq_true] at e
  rw [val_enc second, val_enc (lt_trans (residue_lt c) p_lt)] at e
  have := p_pos
  omega

/-- Settles O39, by the two representatives of a residue. -/
theorem pRepIsExactlyTheLaw : Obligations.PRepIsExactlyTheLaw := by
  unfold Obligations.PRepIsExactlyTheLaw
  refine ⟨rep_lawful, ?_, ?_, ?_⟩
  · intro f law
    exact ⟨fun c => decide (p ≤ val (f c)), fun c => rep_eq_of_lawful (law c) decide_eq_true_iff⟩
  · intro c large P Q
    rw [← residue_cast] at large
    have large : 2 ^ 224 < residue c := by exact_mod_cast large
    rw [rep_of_large_residue P large, rep_of_large_residue Q large]
  · intro c small
    rw [← residue_cast] at small ⊢
    refine ⟨fun P => ?_, _, _, rep_of_small_residue (by exact_mod_cast small)⟩
    rcases val_rep_cases P c with e | ⟨-, -, e⟩ <;> rw [e]
    · exact .inl rfl
    · exact .inr (Nat.cast_add _ _)

/-! ### The first fold of a product -/

/-- The bytes of a number from byte `m` on, `n` of them put together. -/
theorem sum_prodByte (t m n : Nat) :
    ((List.range n).map fun k => prodByte t (k + m) * 256 ^ k).sum = t / 256 ^ m % 256 ^ n := by
  induction n with
  | zero => simp [Nat.mod_one]
  | succ n ih =>
    have byte : prodByte t (n + m) = t / 256 ^ m / 256 ^ n % 256 := by
      rw [prodByte, Nat.div_div_eq_div_mul, ← pow_add, Nat.add_comm]
    simp only [List.range_succ, List.map_append, List.sum_append, List.map_singleton, List.sum_singleton]
    rw [ih, byte, Nat.mod_pow_succ, Nat.mul_comm]

/-- The first fold by the four 224-bit parts of the product (R116). -/
theorem mulFold_eq (t : Nat) :
    mulFold t = t % 2 ^ 224 + t / 2 ^ 448 % 2 ^ 224 + t / 2 ^ 672 % 2 ^ 224 +
      2 ^ 224 * (t / 2 ^ 224 % 2 ^ 224 + t / 2 ^ 448 % 2 ^ 224 + 2 * (t / 2 ^ 672 % 2 ^ 224)) := by
  have part (m : Nat) := sum_prodByte t m 28
  have part0 := part 0
  simp only [Nat.add_zero] at part0
  simp only [mulFold, pow_add, ← mul_assoc, List.sum_map_mul_right]
  simp only [add_mul, mul_assoc, List.sum_map_add, List.sum_map_mul_left, part, part0]
  omega

theorem mulFold_lt (t : Nat) : mulFold t < 2 ^ 450 := by
  rw [mulFold_eq]
  omega

/-- The first fold takes a multiple of p off the product, as 2^448 is p + 2^224 + 1 (R116). -/
theorem mulFold_add {t : Nat} (h : t < 2 ^ 896) :
    mulFold t + (t / 2 ^ 448 % 2 ^ 224 + (2 ^ 224 + 1) * (t / 2 ^ 672 % 2 ^ 224)) * p = t := by
  rw [mulFold_eq]
  unfold p
  omega

theorem mulFold_mod {t : Nat} (h : t < 2 ^ 896) : mulFold t % p = t % p := by
  conv_rhs => rw [← mulFold_add h, Nat.add_mul_mod_self_right]

/-! ### The carry fold -/

/-- A pass adds the carry out of byte 55 in at bytes 0 and 28 (R102). -/
theorem foldPass_eq (s : Nat) : foldPass s = s % 2 ^ 448 + s / 2 ^ 448 * (2 ^ 224 + 1) := by
  unfold foldPass
  rw [Nat.shiftRight_eq_div_pow]
  split <;> omega

theorem foldPass_of_lt {s : Nat} (h : s < 2 ^ 448) : foldPass s = s := if_neg (by omega)

/-- A pass takes as many times p off as the carry says. -/
theorem foldPass_add (s : Nat) : foldPass s + s / 2 ^ 448 * p = s := by
  rw [foldPass_eq]
  unfold p
  omega

theorem foldPass_mod (s : Nat) : foldPass s % p = s % p := by
  conv_rhs => rw [← foldPass_add s, Nat.add_mul_mod_self_right]

/-- Two passes are enough for an integer below 2^464: the second leaves no carry. -/
theorem foldPass_foldPass_lt {s : Nat} (h : s < 2 ^ 464) : foldPass (foldPass s) < 2 ^ 448 := by
  rw [foldPass_eq (foldPass s), foldPass_eq s]
  omega

theorem val_fold {s : Nat} (h : s < 2 ^ 464) : val (fold s) = foldPass (foldPass s) :=
  val_enc (foldPass_foldPass_lt h)

/-- The loop of the carry fold leaves its value after no pass, one or two. -/
theorem fold_passes {s : Nat} (h : s < 2 ^ 464) :
    ∃ k, k ≤ 2 ∧ foldPass^[k] s < 2 ^ 448 ∧ val (fold s) = foldPass^[k] s ∧
      ∀ m, m < k → 2 ^ 448 ≤ foldPass^[m] s := by
  by_cases zero : s < 2 ^ 448
  · exact ⟨0, by omega, zero, by rw [val_fold h, foldPass_of_lt zero, foldPass_of_lt zero]; rfl, by omega⟩
  by_cases one : foldPass s < 2 ^ 448
  · refine ⟨1, by omega, one, by rw [val_fold h, foldPass_of_lt one]; rfl, fun m hm => ?_⟩
    obtain rfl : m = 0 := by omega
    exact not_lt.mp zero
  · refine ⟨2, le_rfl, foldPass_foldPass_lt h, val_fold h, fun m hm => ?_⟩
    rcases (by omega : m = 0 ∨ m = 1) with rfl | rfl
    · exact not_lt.mp zero
    · exact not_lt.mp one

/-! ### What the commands accumulate -/

/-- The offset 2p keeps FSUB's integer positive (R114). -/
theorem fsub_bounds (a b : FieldVal) : val b < val a + 2 * p ∧ val a + 2 * p - val b < 2 ^ 450 := by
  have ha : val a < 2 ^ 448 := a.isLt
  have hb : val b < 2 ^ 448 := b.isLt
  unfold p
  omega

theorem val_mul_val_lt (a b : FieldVal) : val a * val b < 2 ^ 896 :=
  calc val a * val b < 2 ^ 448 * 2 ^ 448 := Nat.mul_lt_mul'' a.isLt b.isLt
    _ = 2 ^ 896 := by norm_num

theorem accumulated_lt (c : RepCall) : accumulated c < 2 ^ 464 := by
  cases c with
  | fadd a b =>
    have ha : val a < 2 ^ 448 := a.isLt
    have hb : val b < 2 ^ 448 := b.isLt
    simp only [accumulated]
    omega
  | fsub a b => exact lt_trans (fsub_bounds a b).2 (by norm_num)
  | fmulc a =>
    have ha : val a < 2 ^ 448 := a.isLt
    simp only [accumulated, a24]
    omega
  | fmul a b => exact lt_trans (mulFold_lt _) (by norm_num)

theorem accumulated_mod (c : RepCall) : (accumulated c : Int) % p = trueResult c % p := by
  cases c with
  | fadd a b => simp [accumulated, trueResult]
  | fsub a b =>
    have e : (accumulated (.fsub a b) : Int) = trueResult (.fsub a b) + 2 * p := by
      have := (fsub_bounds a b).1
      simp only [accumulated, trueResult]
      omega
    rw [e, Int.add_mul_emod_self_right]
  | fmulc a => simp [accumulated, trueResult]
  | fmul a b =>
    simp only [accumulated, trueResult]
    exact_mod_cast mulFold_mod (val_mul_val_lt a b)

theorem fold_mod {s : Nat} (h : s < 2 ^ 464) : val (fold s) % p = s % p := by
  rw [val_fold h, foldPass_mod, foldPass_mod]

/-- The default P_REP's result is the carry fold of what the command accumulates (R102). -/
theorem rep_foldRep (c : RepCall) : rep foldRep c = fold (accumulated c) := by
  refine rep_eq_of_lawful ?_ decide_eq_true_iff
  rw [← accumulated_mod]
  exact_mod_cast fold_mod (accumulated_lt c)

/-- Settles O40, by the passes of the fold and by what each command accumulates. -/
theorem foldIsTheDefaultInstance : Obligations.FoldIsTheDefaultInstance := by
  unfold Obligations.FoldIsTheDefaultInstance
  exact ⟨fun c => ⟨accumulated_lt c, accumulated_mod c, rep_foldRep c⟩, fun s h => fold_passes h⟩

end Sys2Proof.Machine
end

section
/-! PROOFS. What the completion of each command writes (40_field_arith.md R103, R104; 30_encoding.md R77). -/

namespace Sys2Proof.Machine

open Sys2Proof.Claims

/-! ### The shared completions -/

/-- A write to F[rd] and the completion, with or without the run marked, write nothing else. -/
theorem complete_writesReg (s : State) (rd : FReg) (r : FieldVal) (m : Bool) :
    WritesReg s (({ s with runFault := m } : State).writeF rd r).complete rd r where
  pend := rfl
  busy := rfl
  done := rfl
  err := rfl
  errcode := rfl
  errinfo := rfl
  ie := rfl
  lastcmd := rfl
  result := State.readF_writeF_self _ rd r
  marked := State.isWritten_writeF_self { s with runFault := m } rd r
  others _ other := State.readF_writeF_other { s with runFault := m } r other
  marks _ other := State.written_writeF_other { s with runFault := m } r other

/-- A one-source command writes the function of its source to its destination and nothing else. -/
theorem command1_writesReg (s : State) (rd rs1 : FReg) (g : FieldVal → FieldVal) :
    WritesReg s (s.command1 rd rs1 g) rd (g (s.readF rs1)) :=
  complete_writesReg s rd _ _

/-- A two-source command writes the function of its sources to its destination and nothing else. -/
theorem command2_writesReg (s : State) (rd rs1 rs2 : FReg) (g : FieldVal → FieldVal → FieldVal) :
    WritesReg s (s.command2 rd rs1 rs2 g) rd (g (s.readF rs1) (s.readF rs2)) :=
  complete_writesReg s rd _ _

/-- The free values that hidden registers take are no write to a field register (10_state.md R32, R33). -/
theorem writesReg_withHidden {s t : State} {rd : FReg} {r : FieldVal} (w : WritesReg s t rd r) (h : Hidden)
    (k : Nat) : WritesReg s (t.withHidden h k) rd r :=
  ⟨⟨w.pend, w.busy, w.done, w.err, w.errcode, w.errinfo, w.ie, w.lastcmd⟩, w.result, w.marked, w.others, w.marks⟩

/-! ### The commands with one destination -/

section
variable (s : State) (rd rs1 rs2 : FReg)

theorem exec_fnorm : ∃ t, exec (.fnorm rd rs1) s = .next t ∧ WritesReg s t rd (norm (s.readF rs1)) :=
  ⟨_, rfl, command1_writesReg s rd rs1 norm⟩

theorem exec_fcopy : ∃ t, exec (.fcopy rd rs1) s = .next t ∧ WritesReg s t rd (s.readF rs1) :=
  ⟨_, rfl, command1_writesReg s rd rs1 fun x => x⟩

theorem exec_fadd :
    ∃ t, exec (.fadd rd rs1 rs2) s = .next t ∧ WritesReg s t rd (add Config.pRep (s.readF rs1) (s.readF rs2)) :=
  ⟨_, rfl, command2_writesReg s rd rs1 rs2 (add Config.pRep)⟩

theorem exec_fsub :
    ∃ t, exec (.fsub rd rs1 rs2) s = .next t ∧ WritesReg s t rd (sub Config.pRep (s.readF rs1) (s.readF rs2)) :=
  ⟨_, rfl, command2_writesReg s rd rs1 rs2 (sub Config.pRep)⟩

theorem exec_fmulc : ∃ t, exec (.fmulc rd rs1) s = .next t ∧ WritesReg s t rd (mulc Config.pRep (s.readF rs1)) :=
  ⟨_, rfl, command1_writesReg s rd rs1 (mulc Config.pRep)⟩

theorem exec_fmul :
    ∃ t, exec (.fmul rd rs1 rs2) s = .next t ∧ WritesReg s t rd (mul Config.pRep (s.readF rs1) (s.readF rs2)) :=
  ⟨_, rfl, writesReg_withHidden (command2_writesReg s rd rs1 rs2 (mul Config.pRep)) _ _⟩

theorem exec_fsqr : ∃ t, exec (.fsqr rd rs1) s = .next t ∧ WritesReg s t rd (sqr Config.pRep (s.readF rs1)) :=
  ⟨_, rfl, writesReg_withHidden (command1_writesReg s rd rs1 (sqr Config.pRep)) _ _⟩

theorem exec_finv : ∃ t, exec (.finv rd rs1) s = .next t ∧ WritesReg s t rd (inv Config.pRep (s.readF rs1)) :=
  ⟨_, rfl, writesReg_withHidden (command1_writesReg s rd rs1 (inv Config.pRep)) _ _⟩

theorem exec_clamp : ∃ t, exec (.clamp rd rs1) s = .next t ∧ WritesReg s t rd (clampScalar (s.readF rs1)) :=
  ⟨_, rfl, command1_writesReg s rd rs1 clampScalar⟩

/-- LADDER's result, from any contents `h` of the hidden registers (41_scalarmult.md R162). -/
theorem exec_ladder (h : Hidden) :
    ∃ t, exec (.ladder rd rs1 rs2) s = .next t ∧
      WritesReg s t rd (ladder Config.pRep h (s.readF rs1) (s.readF rs2)) := by
  rw [ladder_hidden Config.pRep h s.hidden]
  exact ⟨_, rfl, writesReg_withHidden (command2_writesReg s rd rs1 rs2 (ladder Config.pRep s.hidden)) _ _⟩

/-- X448's result, from any contents `h` of the hidden registers (R162). -/
theorem exec_x448 (h : Hidden) :
    ∃ t, exec (.x448 rd rs1 rs2) s = .next t ∧
      WritesReg s t rd (x448 Config.pRep h (s.readF rs1) (s.readF rs2)) := by
  rw [x448_hidden Config.pRep h s.hidden]
  exact ⟨_, rfl, writesReg_withHidden (command2_writesReg s rd rs1 rs2 (x448 Config.pRep s.hidden)) _ _⟩

end

/-- A command of two operands computes a function of its operand's value. -/
theorem exec_twoOperand {mk : FReg → FReg → Instr} (mem : mk ∈ twoOperand) :
    ∃ g : FieldVal → FieldVal, ∀ s rd rs1,
      ∃ t, exec (mk rd rs1) s = .next t ∧ WritesReg s t rd (g (s.readF rs1)) := by
  simp only [twoOperand, List.mem_cons, List.not_mem_nil, or_false] at mem
  rcases mem with rfl | rfl | rfl | rfl | rfl | rfl
  · exact ⟨norm, exec_fnorm⟩
  · exact ⟨fun x => x, exec_fcopy⟩
  · exact ⟨mulc Config.pRep, exec_fmulc⟩
  · exact ⟨sqr Config.pRep, exec_fsqr⟩
  · exact ⟨inv Config.pRep, exec_finv⟩
  · exact ⟨clampScalar, exec_clamp⟩

/-- A command of three operands computes a function of its operands' values. -/
theorem exec_threeOperand {mk : FReg → FReg → FReg → Instr} (mem : mk ∈ threeOperand) :
    ∃ g : FieldVal → FieldVal → FieldVal, ∀ s rd rs1 rs2,
      ∃ t, exec (mk rd rs1 rs2) s = .next t ∧ WritesReg s t rd (g (s.readF rs1) (s.readF rs2)) := by
  simp only [threeOperand, List.mem_cons, List.not_mem_nil, or_false] at mem
  rcases mem with rfl | rfl | rfl | rfl | rfl
  · exact ⟨add Config.pRep, exec_fadd⟩
  · exact ⟨sub Config.pRep, exec_fsub⟩
  · exact ⟨mul Config.pRep, exec_fmul⟩
  · exact ⟨ladder Config.pRep Hidden.zero, fun s rd rs1 rs2 => exec_ladder s rd rs1 rs2 Hidden.zero⟩
  · exact ⟨x448 Config.pRep Hidden.zero, fun s rd rs1 rs2 => exec_x448 s rd rs1 rs2 Hidden.zero⟩

/-- Settles O42: the copy is a one-source command. -/
theorem fcopyCompletes : Obligations.FcopyCompletes := exec_fcopy

/-! ### The conditional swap -/

/-- The register whose contents FCSWAP leaves in F[n] (R112). -/
def swapSource (rs1 rs2 : FReg) (b : Bool) (n : FReg) : FReg := if b = true then Equiv.swap rs1 rs2 n else n

@[simp] theorem swapSource_left (rs1 rs2 : FReg) (b : Bool) :
    swapSource rs1 rs2 b rs1 = if b = true then rs2 else rs1 := by
  simp [swapSource]

@[simp] theorem swapSource_right (rs1 rs2 : FReg) (b : Bool) :
    swapSource rs1 rs2 b rs2 = if b = true then rs1 else rs2 := by
  simp [swapSource]

theorem swapSource_other {rs1 rs2 n : FReg} (b : Bool) (h1 : n ≠ rs1) (h2 : n ≠ rs2) :
    swapSource rs1 rs2 b n = n := by
  simp [swapSource, Equiv.swap_apply_of_ne_of_ne h1 h2]

/-- A second swap restores both registers. -/
@[simp] theorem swapSource_swapSource (rs1 rs2 n : FReg) (b : Bool) :
    swapSource rs1 rs2 b (swapSource rs1 rs2 b n) = n := by
  cases b
  · rfl
  · exact Equiv.swap_apply_self rs1 rs2 n

/-- FCSWAP's writes, in the order of the model: the second one is to rs2. -/
theorem fcswap_readF (s : State) (rs1 rs2 n : FReg) (b : Bool) :
    ((s.writeF rs1 (cswap b (s.readF rs1) (s.readF rs2)).1).writeF rs2
      (cswap b (s.readF rs1) (s.readF rs2)).2).readF n = s.readF (swapSource rs1 rs2 b n) := by
  rw [cswap_eq, State.readF_writeF, State.readF_writeF]
  by_cases h2 : n = rs2
  · subst h2
    cases b <;> simp
  by_cases h1 : n = rs1
  · subst h1
    cases b <;> simp [h2]
  · rw [if_neg h2, if_neg h1, swapSource_other b h1 h2]

/-- A write to any register keeps a register written. -/
theorem State.isWritten_writeF {s : State} {n : FReg} (m : FReg) (v : FieldVal) (written : s.isWritten n = true) :
    (s.writeF m v).isWritten n = true := by
  by_cases same : n = m
  · rw [same, State.isWritten_writeF_self]
  · rw [State.isWritten, State.written_writeF_other s v same]
    exact written

/-- FCSWAP leaves each register what stood in its source, and marks both its registers. -/
theorem exec_fcswap (s : State) (rs1 rs2 : FReg) (b : Bool) :
    ∃ t, exec (.fcswap rs1 rs2 b) s = .next t ∧ Completed s t ∧
      (∀ n, t.readF n = s.readF (swapSource rs1 rs2 b n)) ∧ t.isWritten rs1 = true ∧ t.isWritten rs2 = true ∧
      ∀ n : FReg, n ≠ rs1 → n ≠ rs2 → t.written[n.val] = s.written[n.val] := by
  obtain ⟨t, run, done⟩ := exec_completed (.fcswap rs1 rs2 b) s
  refine ⟨t, run, done, ?_⟩
  cases run
  refine ⟨fun n => fcswap_readF s rs1 rs2 n b, ?_, ?_, fun n h1 h2 => ?_⟩
  · rw [State.isWritten_complete]
    exact State.isWritten_writeF rs2 _ (State.isWritten_writeF_self _ rs1 _)
  · rw [State.isWritten_complete, State.isWritten_writeF_self]
  · rw [State.complete_written, State.written_writeF_other _ _ h2, State.written_writeF_other _ _ h1]
    rfl

/-- States whose field registers read the same hold the same field registers. -/
theorem State.f_eq_of_readF_eq {s t : State} (same : ∀ n, t.readF n = s.readF n) : t.f = s.f :=
  Vector.ext fun i hi => same ⟨i, hi⟩

/-- Settles O43, by the source of each register's contents. -/
theorem fcswapCompletes : Obligations.FcswapCompletes := by
  unfold Obligations.FcswapCompletes
  intro s rs1 rs2 b
  obtain ⟨t, run, done, contents, mark1, mark2, marks⟩ := exec_fcswap s rs1 rs2 b
  obtain ⟨u, again, -, contents', -⟩ := exec_fcswap t rs1 rs2 b
  refine ⟨t, run, done, ?_, ?_, mark1, mark2, ?_, marks, u, again, State.f_eq_of_readF_eq fun n => ?_⟩
  · rw [contents, swapSource_left, apply_ite s.readF]
  · rw [contents, swapSource_right, apply_ite s.readF]
  · intro n h1 h2
    rw [contents, swapSource_other b h1 h2]
  · rw [contents', contents, swapSource_swapSource]

/-! ### Aliasing -/

/-- Settles O51: a result is a function of the operands' values, and FCSWAP's two are the values themselves. -/
theorem aliasingDoesNotMatter : Obligations.AliasingDoesNotMatter := by
  unfold Obligations.AliasingDoesNotMatter
  intro s s' rd rs1 rs2 rd' rs1' rs2' same1 same2
  refine ⟨fun mk mem => ?_, fun mk mem => ?_, fun b => ?_⟩
  · obtain ⟨g, computes⟩ := exec_threeOperand mem
    obtain ⟨t, run, w⟩ := computes s rd rs1 rs2
    obtain ⟨t', run', w'⟩ := computes s' rd' rs1' rs2'
    exact ⟨t, t', run, run', by rw [w.result, w'.result, same1, same2]⟩
  · obtain ⟨g, computes⟩ := exec_twoOperand mem
    obtain ⟨t, run, w⟩ := computes s rd rs1
    obtain ⟨t', run', w'⟩ := computes s' rd' rs1'
    exact ⟨t, t', run, run', by rw [w.result, w'.result, same1]⟩
  · obtain ⟨t, run, -, contents, -⟩ := exec_fcswap s rs1 rs2 b
    obtain ⟨t', run', -, contents', -⟩ := exec_fcswap s' rs1' rs2' b
    refine ⟨t, t', run, run', ?_, ?_⟩
    · rw [contents, contents', swapSource_left, swapSource_left]
      cases b
      · exact same1
      · exact same2
    · rw [contents, contents', swapSource_right, swapSource_right]
      cases b
      · exact same2
      · exact same1

end Sys2Proof.Machine
end

section
/-! PROOFS. The two-pass byte method of FNORM (O41; 40_field_arith.md R110): the bytes so far and the running carry
put together are the sum so far. -/

set_option exponentiation.threshold 1000

namespace Sys2Proof.Machine

open Sys2Proof.Claims

/-- `n` bytes of a pass that adds `c` at bytes 0 and 28: the running carry, and the bytes, last one first. -/
def normPass (a : FieldVal) (c n : Nat) : Nat × List (BitVec 8) := (List.range n).foldl (normByte a c) (0, [])

theorem normPass_succ (a : FieldVal) (c n : Nat) : normPass a c (n + 1) = normByte a c (normPass a c n) n := by
  rw [normPass, List.range_succ, List.foldl_append]
  rfl

/-- Pass 1 is the carry of a pass that adds 1. -/
theorem normCarry_eq (a : FieldVal) : normCarry a = (normPass a 1 56).1 :=
  (List.foldl_hom Prod.fst (g₁ := normByte a 1) (init := (0, [])) fun _ _ => rfl)

/-- Bytes as a number, byte 0 first (00_scope.md R11). -/
def bytesNat (bs : List (BitVec 8)) : Nat := Nat.ofDigits 256 (bs.map BitVec.toNat)

theorem ofBytes_eq (bs : List (BitVec 8)) : ofBytes bs = enc (bytesNat bs) := by
  rw [ofBytes, bytesNat, Nat.ofDigits_eq_foldr, List.foldr_map]
  rfl

theorem bytesNat_append_singleton (bs : List (BitVec 8)) (b : BitVec 8) :
    bytesNat (bs ++ [b]) = bytesNat bs + 256 ^ bs.length * b.toNat := by
  simp [bytesNat, Nat.ofDigits_append]

theorem bytesNat_lt (bs : List (BitVec 8)) : bytesNat bs < 256 ^ bs.length := by
  have small : ∀ d ∈ bs.map BitVec.toNat, d < 256 := by
    intro d mem
    obtain ⟨b, -, rfl⟩ := List.mem_map.mp mem
    exact b.isLt
  simpa [bytesNat] using Nat.ofDigits_lt_base_pow_length (by norm_num) small

theorem byteOf_toNat (a : FieldVal) (k : Nat) : (byteOf a k).toNat = val a / 256 ^ k % 256 := by
  rw [byteOf, BitVec.extractLsb'_toNat, Nat.shiftRight_eq_div_pow, pow_mul]
  rfl

/-- What adding 1 at bytes 0 and 28 adds to the first `n` bytes. -/
def foldOnes (n : Nat) : Nat := ((List.range n).map fun k => if k = 0 ∨ k = 28 then 256 ^ k else 0).sum

theorem foldOnes_succ (n : Nat) : foldOnes (n + 1) = foldOnes n + if n = 0 ∨ n = 28 then 256 ^ n else 0 := by
  simp [foldOnes, List.range_succ]

/-- All 56 bytes: 2^448 less p (R100). -/
theorem foldOnes_all : foldOnes 56 = 2 ^ 224 + 1 := by decide

theorem normPass_length (a : FieldVal) (c n : Nat) : (normPass a c n).2.length = n := by
  induction n with
  | zero => rfl
  | succ n ih => rw [normPass_succ, normByte, List.length_cons, ih]

/-- The bytes so far and the carry above them are the sum so far. -/
theorem normPass_sum (a : FieldVal) (c n : Nat) :
    bytesNat (normPass a c n).2.reverse + 256 ^ n * (normPass a c n).1 = val a % 256 ^ n + c * foldOnes n := by
  induction n with
  | zero => simp [normPass, bytesNat, foldOnes, Nat.mod_one]
  | succ n ih =>
    have len := normPass_length a c n
    rw [normPass_succ]
    generalize normPass a c n = st at ih len
    simp only [normByte, List.reverse_cons, bytesNat_append_singleton, List.length_reverse, len, byteOf_toNat,
      foldOnes_succ, Nat.mod_pow_succ, BitVec.toNat_ofNat, Nat.mod_mod, Nat.shiftRight_eq_div_pow, Nat.reducePow]
    generalize val a / 256 ^ n % 256 = byte
    generalize digit : st.1 + byte + (if n = 0 ∨ n = 28 then c else 0) = o
    have split_o : 256 ^ n * (o % 256) + 256 ^ (n + 1) * (o / 256) = 256 ^ n * o := by
      rw [pow_succ, mul_assoc, ← mul_add, Nat.mod_add_div]
    rw [add_assoc, split_o, ← digit]
    split_ifs <;> linarith

/-- A pass over the 56 bytes: the carry out of byte 55, and the bytes that are kept. -/
theorem normPass_all (a : FieldVal) (c : Nat) :
    (normPass a c 56).1 = (val a + c * (2 ^ 224 + 1)) / 2 ^ 448 ∧
    ofBytes (normPass a c 56).2.reverse = enc (val a + c * (2 ^ 224 + 1)) := by
  have sum := normPass_sum a c 56
  have low := bytesNat_lt (normPass a c 56).2.reverse
  have bound : val a < 2 ^ 448 := a.isLt
  have bytes : (256 : Nat) ^ 56 = 2 ^ 448 := by norm_num
  rw [List.length_reverse, normPass_length, bytes] at low
  rw [foldOnes_all, bytes, Nat.mod_eq_of_lt bound] at sum
  rw [← sum, ofBytes_eq]
  refine ⟨by omega, BitVec.eq_of_toNat_eq ?_⟩
  simp [enc, BitVec.toNat_ofNat]

/-- Pass 1 carries exactly when the value is not below p. -/
theorem normCarry_eq_ite (a : FieldVal) : normCarry a = if p ≤ val a then 1 else 0 := by
  have bound : val a < 2 ^ 448 := a.isLt
  rw [normCarry_eq, (normPass_all a 1).1]
  unfold p
  split <;> omega

/-- The byte method computes the canonical residue. -/
theorem normBytes_eq (a : FieldVal) : normBytes a = norm a := by
  have bound : val a < 2 ^ 448 := a.isLt
  apply BitVec.eq_of_toNat_eq
  calc (normBytes a).toNat = (enc (val a + normCarry a * (2 ^ 224 + 1))).toNat :=
        congrArg _ (normPass_all a (normCarry a)).2
    _ = val a % p := by
        rw [normCarry_eq_ite, enc, BitVec.toNat_ofNat]
        unfold p
        split <;> omega
    _ = (norm a).toNat := (val_norm a).symm

theorem norm_norm (x : FieldVal) : norm (norm x) = norm x := by
  apply BitVec.eq_of_toNat_eq
  change val (norm (norm x)) = val (norm x)
  rw [val_norm, val_norm, Nat.mod_mod]

/-- Settles O41: the byte method is NORM, whose values are residues. -/
theorem fnormCompletes : Obligations.FnormCompletes := by
  unfold Obligations.FnormCompletes
  simp only [normBytes_eq]
  refine ⟨fun s rd rs1 => ?_, normCarry_eq_ite, by decide, by decide, by decide, by decide, norm_norm⟩
  obtain ⟨t, run, w⟩ := exec_fnorm s rd rs1
  exact ⟨t, run, w, by rw [w.result, val_norm]⟩

end Sys2Proof.Machine
end

section
/-! PROOFS. The unnormalized commands (O44 to O47; 40_field_arith.md R113 to R116): the law under the machine's P_REP,
and the fold of the default one. -/

set_option exponentiation.threshold 1000

namespace Sys2Proof.Machine

open Sys2Proof.Claims

/-- The law of a command whose true result is a natural number. -/
theorem val_rep_mod_of_nat (P : PRep) {c : RepCall} {v : Nat} (true_result : trueResult c = v) :
    val (rep P c) % p = v % p := by
  have law := rep_lawful P c
  rw [true_result] at law
  exact_mod_cast law

theorem val_add_mod (P : PRep) (x y : FieldVal) : val (add P x y) % p = (val x + val y) % p :=
  val_rep_mod_of_nat P (Nat.cast_add _ _).symm

theorem val_mulc_mod (P : PRep) (x : FieldVal) : val (mulc P x) % p = 39081 * val x % p :=
  val_rep_mod_of_nat P (Nat.cast_mul 39081 _).symm

theorem val_mul_mod (P : PRep) (x y : FieldVal) : val (mul P x y) % p = val x * val y % p :=
  val_rep_mod_of_nat P (Nat.cast_mul _ _).symm

/-- Settles O44: the default results are folds of sums. -/
theorem faddCompletes : Obligations.FaddCompletes := by
  unfold Obligations.FaddCompletes
  refine ⟨fun s rd rs1 rs2 => ?_, fun a b => rep_foldRep _, (rep_foldRep _).trans (by decide),
    (rep_foldRep _).trans (by decide), fun x => ?_, (rep_foldRep _).trans (by decide), fun P => ?_⟩
  · obtain ⟨t, run, w⟩ := exec_fadd s rd rs1 rs2
    exact ⟨t, run, w, w.result ▸ val_add_mod _ _ _⟩
  · rw [rep_foldRep, two_mul]
    rfl
  · apply BitVec.eq_of_toNat_eq
    rw [BitVec.toNat_umod]
    change val (add P 2 3) % val (enc p) = 5
    rw [val_enc p_lt, val_add_mod]
    decide

/-- Settles O45: the default results are folds, and the residue of 3 - 5 has one representative. -/
theorem fsubCompletes : Obligations.FsubCompletes := by
  unfold Obligations.FsubCompletes
  refine ⟨fun s rd rs1 rs2 => ?_, by decide, fsub_bounds, fun a b => rep_foldRep _, fun x => ?_,
    (rep_foldRep _).trans (by decide), (rep_foldRep _).trans (by decide), (rep_foldRep _).trans (by decide),
    fun P => rep_of_large_residue P (by decide)⟩
  · obtain ⟨t, run, w⟩ := exec_fsub s rd rs1 rs2
    exact ⟨t, run, w, w.result ▸ rep_lawful _ _⟩
  · rw [rep_foldRep, accumulated, Nat.add_sub_cancel_left]
    decide

/-- Settles O46: the default results are folds of 39081 times the source. -/
theorem fmulcCompletes : Obligations.FmulcCompletes := by
  unfold Obligations.FmulcCompletes
  refine ⟨fun s rd rs1 => ?_, fun a => rep_foldRep _, ?_⟩
  · obtain ⟨t, run, w⟩ := exec_fmulc s rd rs1
    exact ⟨t, run, w, w.result ▸ val_mulc_mod _ _⟩
  · simp only [rep_foldRep]
    decide

/-- Settles O47: the default results are carry folds of the product's first fold. -/
theorem fmulCompletes : Obligations.FmulCompletes := by
  unfold Obligations.FmulCompletes
  refine ⟨fun s rd rs1 rs2 => ?_, fun T small => ⟨mulFold_lt T, mulFold_mod small⟩, fun a b => rep_foldRep _,
    fun P x y factor => ?_, fun x => ?_, ?_⟩
  · obtain ⟨t, run, w⟩ := exec_fmul s rd rs1 rs2
    exact ⟨t, run, w, w.result ▸ val_mul_mod _ _ _⟩
  · refine (val_mul_mod P x y).trans ?_
    rcases factor with zero | zero <;> simp [Nat.mul_mod, zero]
  · have zero : val 0 * val x = 0 := Nat.zero_mul _
    rw [rep_foldRep, accumulated, zero]
    decide
  · simp only [rep_foldRep]
    decide

end Sys2Proof.Machine
end

section
/-! PROOFS. The field unit over residues (O48, O49; 40_field_arith.md R106, R117, R118): every operation is that of the
integers mod p. -/

set_option exponentiation.threshold 1000

namespace Sys2Proof.Machine

open Sys2Proof.Claims

/-! ### Residues -/

/-- The field element a value stands for (R100). -/
def residueOf (x : FieldVal) : ZMod p := (val x : ZMod p)

theorem residueOf_eq_iff {x y : FieldVal} : residueOf x = residueOf y ↔ val x % p = val y % p :=
  ZMod.natCast_eq_natCast_iff' _ _ p

/-- A value stands for any integer of its residue. -/
theorem residueOf_eq_natCast {x : FieldVal} {v : Nat} (h : val x % p = v % p) : residueOf x = v :=
  (ZMod.natCast_eq_natCast_iff' _ _ p).mpr h

/-- A normalized value is read off the residue. -/
theorem norm_eq_enc (x : FieldVal) : norm x = enc (residueOf x).val := by
  rw [residueOf, ZMod.val_natCast]
  rfl

/-- Any result stands for the residue of the true result. -/
theorem residueOf_rep (P : PRep) (c : RepCall) : residueOf (rep P c) = trueResult c :=
  calc residueOf (rep P c) = ((val (rep P c) : Int) : ZMod p) := (Int.cast_natCast _).symm
    _ = trueResult c := (ZMod.intCast_eq_intCast_iff' _ _ p).mpr (rep_lawful P c)

section
variable (P : PRep) (x y : FieldVal)

@[simp] theorem residueOf_norm : residueOf (norm x) = residueOf x := by
  rw [residueOf_eq_iff, val_norm, Nat.mod_mod]

@[simp] theorem residueOf_add : residueOf (add P x y) = residueOf x + residueOf y := by
  rw [add, residueOf_rep]
  simp [trueResult, residueOf]

@[simp] theorem residueOf_sub : residueOf (sub P x y) = residueOf x - residueOf y := by
  rw [sub, residueOf_rep]
  simp [trueResult, residueOf]

@[simp] theorem residueOf_mulc : residueOf (mulc P x) = 39081 * residueOf x := by
  rw [mulc, residueOf_rep]
  simp [trueResult, residueOf, a24]

@[simp] theorem residueOf_mul : residueOf (mul P x y) = residueOf x * residueOf y := by
  rw [mul, residueOf_rep]
  simp [trueResult, residueOf]

@[simp] theorem residueOf_sqr : residueOf (sqr P x) = residueOf x ^ 2 := by
  rw [sqr, residueOf_norm, ← mul, residueOf_mul, sq]

end

/-! ### FSQR -/

/-- The square is the canonical residue under every P_REP (R117). -/
theorem sqr_eq (P : PRep) (a : FieldVal) : sqr P a = enc (val a ^ 2 % p) := by
  rw [sqr, norm, canon, ← mul, val_mul_mod, sq]

theorem val_enc_mod (v : Nat) : val (enc (v % p)) = v % p := val_enc (lt_trans (canon_lt v) p_lt)

/-- Settles O48: the normalized product does not depend on P_REP. -/
theorem fsqrCompletes : Obligations.FsqrCompletes := by
  unfold Obligations.FsqrCompletes
  refine ⟨fun s rd rs1 => ?_, fun P a => ⟨rfl, sqr_eq P a, ?_⟩, fun P => ?_⟩
  · obtain ⟨t, run, w⟩ := exec_fsqr s rd rs1
    exact ⟨t, run, sqr_eq Config.pRep _ ▸ w⟩
  · rw [sqr_eq, val_enc_mod]
    exact canon_lt _
  · simp only [sqr_eq]
    decide

/-! ### FINV -/

/-- A round of the chain takes the power e to the power 2e + 1; `n` rounds, said of the exponents plus one (R118). -/
theorem residueOf_rounds (P : PRep) {a t : FieldVal} {e : Nat} (n : Nat) (power : residueOf t = residueOf a ^ e) :
    residueOf ((sqrMul P a)^[n] t) = residueOf a ^ (2 ^ n * (e + 1) - 1) := by
  induction n generalizing t e with
  | zero => simpa using power
  | succ n ih =>
    have round : residueOf (sqrMul P a t) = residueOf a ^ (2 * e + 1) := by
      rw [sqrMul, residueOf_mul, residueOf_sqr, power]
      ring
    have exponent : 2 ^ n * (2 * e + 1 + 1) = 2 ^ (n + 1) * (e + 1) := by ring
    rw [Function.iterate_succ_apply, ih round, exponent]

/-- The chain's exponent is p - 2 (R118). -/
theorem residueOf_invChain (P : PRep) (a : FieldVal) : residueOf (invChain P a) = residueOf a ^ (p - 2) := by
  have first : residueOf (sqrMul P a a) = residueOf a ^ 3 := by
    rw [sqrMul, residueOf_mul, residueOf_sqr, ← pow_succ]
  have high := residueOf_rounds P 221 first
  have square : residueOf (sqr P ((sqrMul P a)^[221] (sqrMul P a a))) =
      residueOf a ^ ((2 ^ 221 * (3 + 1) - 1) * 2) := by
    rw [residueOf_sqr, high, pow_mul]
  have low := residueOf_rounds P 222 square
  have exponent : (2 ^ 222 * ((2 ^ 221 * (3 + 1) - 1) * 2 + 1) - 1) * 2 * 2 + 1 = p - 2 := by decide
  rw [← exponent, pow_succ, pow_mul, pow_mul, ← low, invChain, residueOf_mul, residueOf_sqr, residueOf_sqr]

/-- INV is the (p-2)-th power under every P_REP (R106). -/
theorem inv_eq (P : PRep) (a : FieldVal) : inv P a = enc (residueOf a ^ (p - 2)).val := by
  rw [inv, norm_eq_enc, residueOf_invChain]

@[simp] theorem residueOf_inv (P : PRep) (a : FieldVal) : residueOf (inv P a) = residueOf a ^ (p - 2) := by
  rw [inv, residueOf_norm, residueOf_invChain]

theorem inv_eq_enc_mod (P : PRep) (a : FieldVal) : inv P a = enc (val a ^ (p - 2) % p) := by
  rw [inv_eq, residueOf, ← Nat.cast_pow, ZMod.val_natCast]

/-- A residue whose (p-1)-th power is 1 has its inverse as its (p-2)-th power. -/
theorem pow_eq_of_mul_eq_one {x y : ZMod p} (fermat : x ^ (p - 1) = 1) (inverse : x * y = 1) : x ^ (p - 2) = y := by
  have exponent : p - 1 = p - 2 + 1 := by decide
  calc x ^ (p - 2) = x ^ (p - 2) * (x * y) := by rw [inverse, mul_one]
    _ = x ^ (p - 1) * y := by rw [exponent, pow_succ, mul_assoc]
    _ = y := by rw [fermat, one_mul]

/-- INV of a value whose (p-1)-th power is 1 is its inverse. -/
theorem inv_eq_of_mul_mod {P : PRep} {a : FieldVal} {b : Nat} (fermat : residueOf a ^ (p - 1) = 1) (small : b < p)
    (inverse : val a * b % p = 1 % p) : inv P a = enc b := by
  have product : residueOf a * (b : ZMod p) = 1 := by
    rw [residueOf, ← Nat.cast_mul, ← Nat.cast_one, ZMod.natCast_eq_natCast_iff', inverse]
  rw [inv_eq, pow_eq_of_mul_eq_one fermat product, ZMod.val_natCast, Nat.mod_eq_of_lt small]

/-- p in hexadecimal, for the evaluation of a power mod p. -/
theorem p_eq_hex :
    p =
      0xFFFFFFFFFFFFFFFFFFFFFFFFFFFFFFFFFFFFFFFFFFFFFFFFFFFFFFFEFFFFFFFFFFFFFFFFFFFFFFFFFFFFFFFFFFFFFFFFFFFFFFFFFFFFFFFF :=
  by decide

/-- By evaluation, as nothing here says that p is prime. -/
theorem two_pow_p_sub_one : (2 : ZMod p) ^ (p - 1) = 1 := by
  rw [p_eq_hex]
  reduce_mod_char

theorem inv_of_residue_zero (P : PRep) {a : FieldVal} (zero : val a % p = 0) : inv P a = 0 := by
  have residue : residueOf a = 0 := (ZMod.natCast_eq_zero_iff _ _).mpr (Nat.dvd_of_mod_eq_zero zero)
  have power : p - 2 ≠ 0 := by decide
  rw [inv_eq, residue, zero_pow power, ZMod.val_zero]
  rfl

/-- The corner cases of R118: an inverse for each, and its (p-1)-th power. -/
theorem inv_corners (P : PRep) :
    inv P 1 = 1 ∧ inv P (enc (p - 1)) = enc (p - 1) ∧ inv P 2 = enc (2 ^ 447 - 2 ^ 223) ∧
    inv P (enc (2 ^ 448 - 1)) = enc (2 ^ 224 - 1) := by
  have one : residueOf 1 = (1 : Nat) := residueOf_eq_natCast (by decide)
  have two : residueOf 2 = (2 : Nat) := residueOf_eq_natCast (by decide)
  have ones : residueOf (enc (2 ^ 448 - 1)) = (2 ^ 224 : Nat) := residueOf_eq_natCast (by decide)
  have minus_one : residueOf (enc (p - 1)) = -1 := by
    have sum : residueOf (enc (p - 1)) + (1 : Nat) = 0 := by
      rw [residueOf, ← Nat.cast_add, ZMod.natCast_eq_zero_iff]
      decide
    exact eq_neg_of_add_eq_zero_left (by simpa using sum)
  refine ⟨inv_eq_of_mul_mod (b := 1) ?_ (by decide) (by decide), inv_eq_of_mul_mod ?_ (by decide) (by decide),
    inv_eq_of_mul_mod ?_ (by decide) (by decide), inv_eq_of_mul_mod ?_ (by decide) (by decide)⟩
  · rw [one, Nat.cast_one, one_pow]
  · rw [minus_one, Even.neg_one_pow (by decide)]
  · rw [two]
    exact two_pow_p_sub_one
  · rw [ones, Nat.cast_pow, pow_right_comm, Nat.cast_ofNat, two_pow_p_sub_one, one_pow]

/-- Settles O49, by the chain's power and the corner cases. -/
theorem finvCompletes : Obligations.FinvCompletes := by
  unfold Obligations.FinvCompletes
  refine ⟨fun s rd rs1 => ?_, fun P a => ⟨?_, inv_of_residue_zero P⟩, inv_corners⟩
  · obtain ⟨t, run, w⟩ := exec_finv s rd rs1
    exact ⟨t, run, inv_eq_enc_mod Config.pRep _ ▸ w⟩
  · rw [inv_eq_enc_mod, val_enc_mod]

end Sys2Proof.Machine
end

section
/-! PROOFS. Which commands return normalized values (O50; 40_field_arith.md R105). -/

namespace Sys2Proof.Machine

open Sys2Proof.Claims

theorem val_norm_lt (x : FieldVal) : val (norm x) < p := by
  rw [val_norm]
  exact canon_lt _

/-- FNORM, FSQR and FINV end in NORM. -/
theorem exec_normalizing (s : State) (rd rs1 : FReg) {mk : FReg → FReg → Instr}
    (mem : mk ∈ ([.fnorm, .fsqr, .finv] : List (FReg → FReg → Instr))) :
    ∃ t x, exec (mk rd rs1) s = .next t ∧ t.readF rd = norm x := by
  simp only [List.mem_cons, List.not_mem_nil, or_false] at mem
  rcases mem with rfl | rfl | rfl
  · obtain ⟨t, run, w⟩ := exec_fnorm s rd rs1
    exact ⟨t, _, run, w.result⟩
  · obtain ⟨t, run, w⟩ := exec_fsqr s rd rs1
    exact ⟨t, _, run, w.result⟩
  · obtain ⟨t, run, w⟩ := exec_finv s rd rs1
    exact ⟨t, _, run, w.result⟩

/-- Settles O50, by what each command writes. -/
theorem normalizedOutputs : Obligations.NormalizedOutputs := by
  unfold Obligations.NormalizedOutputs
  refine ⟨fun s rd rs1 mk mem => ?_, fun s rd rs1 rs2 => ⟨?_, ?_, ?_, ?_⟩, fun s rd rs1 => ?_, fun s rs1 rs2 b => ?_⟩
  · obtain ⟨t, x, run, result⟩ := exec_normalizing s rd rs1 mem
    exact ⟨t, run, by rw [result]; exact val_norm_lt x⟩
  · obtain ⟨t, run, w⟩ := exec_fadd s rd rs1 rs2
    exact ⟨t, run, w.result ▸ rep_lawful _ _⟩
  · obtain ⟨t, run, w⟩ := exec_fsub s rd rs1 rs2
    exact ⟨t, run, w.result ▸ rep_lawful _ _⟩
  · obtain ⟨t, run, w⟩ := exec_fmulc s rd rs1
    exact ⟨t, run, w.result ▸ rep_lawful _ _⟩
  · obtain ⟨t, run, w⟩ := exec_fmul s rd rs1 rs2
    exact ⟨t, run, w.result ▸ rep_lawful _ _⟩
  · obtain ⟨t, run, w⟩ := exec_fcopy s rd rs1
    exact ⟨t, run, by rw [w.result]⟩
  · obtain ⟨t, run, -, contents, -⟩ := exec_fcswap s rs1 rs2 b
    refine ⟨t, run, ?_⟩
    rw [contents, contents, swapSource_left, swapSource_right]
    cases b
    · exact Iff.rfl
    · exact and_comm

end Sys2Proof.Machine
end

section
/-! PROOFS. The ladder over residues (O58; 41_scalarmult.md R154 to R162): each part of the controller, seen through the
residues of its points, is that part of the plain ladder, which has no P_REP and no hidden registers. -/

set_option exponentiation.threshold 1000

namespace Sys2Proof.Machine

open Sys2Proof.Claims

/-- The ladder's two points, as residues. -/
def Hidden.points (h : Hidden) : Points := ⟨residueOf h.x2, residueOf h.z2, residueOf h.x3, residueOf h.z3⟩

/-- The swap exchanges the points exactly when the flag is set (R155). -/
theorem ladderSwap_points (h : Hidden) : (ladderSwap h).points = h.points.swap h.swap := by
  cases flag : h.swap <;> simp only [ladderSwap, Hidden.points, Points.swap, cswap_eq, flag] <;> rfl

/-- STEP doubles the first point and adds the two, over residues, under every P_REP (R156). -/
theorem ladderStep_points (P : PRep) (h : Hidden) :
    (ladderStep P h).points = h.points.step (residueOf h.x1) := by
  simp only [ladderStep, Hidden.points, Points.step, residueOf_add, residueOf_sub, residueOf_mulc, residueOf_mul,
    residueOf_sqr]

/-- STEP leaves the point, the scalar and the flag. -/
theorem ladderStep_frame (P : PRep) (h : Hidden) :
    (ladderStep P h).x1 = h.x1 ∧ (ladderStep P h).kc = h.kc ∧ (ladderStep P h).swap = h.swap := by
  cases h
  exact ⟨rfl, rfl, rfl⟩

/-- The hidden registers of an iteration before its STEP: the deferred swap done, and the bit as the flag (R155). -/
def ladderSelect (i : Nat) (h : Hidden) : Hidden :=
  { ladderSwap { h with i := Fin.ofNat 448 i, swap := h.swap ^^ scalarBit h.kc i } with swap := scalarBit h.kc i }

theorem ladderIterate_eq (P : PRep) (i : Nat) (h : Hidden) :
    ladderIterate P i h = ladderStep P (ladderSelect i h) := rfl

/-- The bit taken by shift and mask is the scalar's (R151). -/
theorem scalarBit_eq_testBit (k : FieldVal) (i : Nat) : scalarBit k i = (val k).testBit i := by
  have low_bit : ∀ b : BitVec 8, (b &&& 1 == 1) = b.getLsbD 0 := by decide
  have low : i % 8 < 8 := Nat.mod_lt _ (by decide)
  have index : 8 * (i / 2 ^ 3) + i % 8 = i := Nat.div_add_mod i 8
  rw [scalarBit, low_bit, BitVec.getLsbD_ushiftRight, byteOf, BitVec.getLsbD_extractLsb', Nat.shiftRight_eq_div_pow,
    Nat.add_zero, index, decide_eq_true low, Bool.true_and]
  rfl

/-- The points as they are once the deferred swap is done. -/
def Hidden.settled (h : Hidden) : Points := h.points.swap h.swap

/-- A swap by the flag's change is the deferred swap and the swap by the bit. -/
theorem Points.swap_xor (q : Points) (a b : Bool) : q.swap (a ^^ b) = (q.swap a).swap b := by
  cases a <;> cases b <;> rfl

/-- Before STEP the points are the settled ones, swapped in by the bit. -/
theorem ladderSelect_points (i : Nat) (h : Hidden) :
    (ladderSelect i h).points = h.settled.swap (scalarBit h.kc i) :=
  calc (ladderSelect i h).points = h.points.swap (h.swap ^^ scalarBit h.kc i) := ladderSwap_points _
    _ = h.settled.swap (scalarBit h.kc i) := Points.swap_xor _ _ _

/-- An iteration, over residues: swap in by the bit, STEP, swap out (R155). -/
theorem ladderIterate_settled (P : PRep) (i : Nat) (h : Hidden) :
    (ladderIterate P i h).settled =
      ((h.settled.swap (scalarBit h.kc i)).step (residueOf h.x1)).swap (scalarBit h.kc i) := by
  obtain ⟨-, -, flag⟩ := ladderStep_frame P (ladderSelect i h)
  rw [Hidden.settled, ladderIterate_eq, ladderStep_points, flag, ladderSelect_points]
  rfl

/-- The iterations are those of the plain ladder. -/
theorem ladderLoop_settled (P : PRep) (n : Nat) (h : Hidden) :
    (ladderLoop P n h).settled = refLoop (residueOf h.x1) (val h.kc) n h.settled := by
  induction n generalizing h with
  | zero => rfl
  | succ n ih =>
    obtain ⟨x1, kc, -⟩ := ladderStep_frame P (ladderSelect n h)
    rw [ladderLoop_succ, Function.comp_apply, ih, ladderIterate_settled, ladderIterate_eq, x1, kc,
      scalarBit_eq_testBit]
    rfl

/-- Termination divides the settled first point's coordinates (R157). -/
theorem ladderTerminate_eq (P : PRep) (h : Hidden) :
    ladderTerminate P h = enc (h.settled.x2 * h.settled.z2 ^ (p - 2)).val := by
  rw [ladderTerminate, norm_eq_enc, residueOf_mul, residueOf_inv, Hidden.settled, ← ladderSwap_points]
  rfl

/-- Initialization settles on the points (1 : 0) and (u : 1) (R154). -/
theorem ladderInit_settled (u k : FieldVal) (h : Hidden) :
    (ladderInit u k h).settled = ⟨1, 0, residueOf u, 1⟩ := by
  have one : residueOf (enc 1) = (1 : Nat) := residueOf_eq_natCast (by decide)
  have zero : residueOf (enc 0) = (0 : Nat) := residueOf_eq_natCast (by decide)
  simp [ladderInit, Hidden.settled, Hidden.points, Points.swap, one, zero]

/-- LADDER computes the plain ladder over residues, under every P_REP and from any hidden registers (R158). -/
theorem ladder_eq_refLadder (P : PRep) (h : Hidden) (u k : FieldVal) :
    ladder P h u k = enc (refLadder (val u) (val k)) := by
  rw [ladder, ladderTerminate_eq, ladderLoop_settled, ladderInit_settled]
  rfl

theorem refLadder_lt (u k : Nat) : refLadder u k < p := by
  have : NeZero p := ⟨p_pos.ne'⟩
  unfold refLadder
  exact ZMod.val_lt _

/-- Settles O58: the plain ladder over residues mentions neither. -/
theorem ladderIsIndependentOfInstance : Obligations.LadderIsIndependentOfInstance := by
  unfold Obligations.LadderIsIndependentOfInstance
  intro P Q h h' u k
  refine ⟨?_, ?_, ?_⟩
  · rw [ladder_eq_refLadder, ladder_eq_refLadder]
  · rw [x448, x448, ladder_eq_refLadder, ladder_eq_refLadder]
  · rw [ladder_eq_refLadder, val_enc (lt_trans (refLadder_lt _ _) p_lt)]
    exact refLadder_lt _ _

end Sys2Proof.Machine
end

section
/-! PROOFS. The controller's commands (O53 to O57; 41_scalarmult.md R151 to R160): NOP, the clamp by bytes, by bits and
as arithmetic, the bits of a scalar, and LADDER and X448 as the plain ladder over residues. -/

set_option exponentiation.threshold 1000

namespace Sys2Proof.Machine

open Sys2Proof.Claims

/-! ### NOP -/

/-- NOP's completion changes no field register (R160). -/
theorem complete_writesNone (s : State) : WritesNone s s.complete :=
  ⟨⟨rfl, rfl, rfl, rfl, rfl, rfl, rfl, rfl⟩, rfl, rfl⟩

/-- With no error recorded, STATUS after an acceptance shows BUSY alone (10_state.md R24 to R26). -/
theorem statusWord_accept {s : State} (noError : s.err = false) (noCode : s.errcode = 0) (w : Word) (i : Instr) :
    (s.accept w i).statusWord = 1 := by
  simp [State.statusWord, noError, noCode]

/-- With no error recorded, STATUS after a completion shows DONE alone. -/
theorem statusWord_complete {s : State} (noError : s.err = false) (noCode : s.errcode = 0) :
    s.complete.statusWord = 2 := by
  simp [State.statusWord, noError, noCode]

/-- With opcode 0 the whole word is under the mask, so only the word 0 is a command (30_encoding.md R72, R73). -/
theorem step_writeCmd_nopRow {s : State} {w : Word} (rest : List HostOp) (idle : s.busy = false) (nonzero : w ≠ 0)
    (opc : w.extractLsb' 0 8 = 0) :
    step { s with inbox := hostWrite 0x00C w :: rest } = .next (errorRecorded { s with inbox := rest } 2 w) := by
  have opcode : opcOf w = 0 := by
    simpa [opcOf] using congrArg BitVec.toNat opc
  have mapped : mappedOpc 0 := by decide
  have illegal : w &&& maskOf 0 ≠ BitVec.ofNat 32 0 := fun e => nonzero (BitVec.and_allOnes.symm.trans e)
  have free : ¬ s.busy = true := by simp [idle]
  obtain ⟨m, outcome⟩ := commandWriteOutcomes s w rest
  rw [opcode] at outcome
  dsimp only at outcome
  rwa [if_neg free, if_pos mapped, if_neg illegal] at outcome

/-- Settles O53: the word 0 is accepted as NOP, which the order token lets complete. -/
theorem nopCompletes : Obligations.NopCompletes := by
  unfold Obligations.NopCompletes
  refine ⟨fun s => ⟨_, rfl, complete_writesNone s⟩, fun s rest idle noError noCode => ?_,
    fun s w rest idle nonzero opc => step_writeCmd_nopRow rest idle nonzero opc⟩
  have legal : decodeWord 0 = .ok .nop := by decide
  have turn := step_engine_busy (s := (s.noteReads []).accept 0 .nop) (i := .nop) rest rfl rfl
  refine ⟨_, _, step_accept (.engine :: rest) idle legal, ?_, turn, ?_, rfl, rfl, rfl⟩
  · exact statusWord_accept noError noCode 0 .nop
  · exact statusWord_complete noError noCode

/-! ### The clamp -/

/-- A byte of a value one of whose bytes has been stored (00_scope.md R11). -/
theorem byteOf_setByte (x : FieldVal) (v : BitVec 8) {j k : Nat} (hj : j < 56) (hk : k < 56) :
    byteOf (setByte x j v) k = if k = j then v else byteOf x k := by
  unfold byteOf setByte
  split
  · subst k
    rw [extractLsb'_putBits_inside x v (by omega) (by omega) (by omega), Nat.sub_self]
    exact BitVec.extractLsb'_eq_self
  · exact extractLsb'_putBits_outside x v (by omega) (by omega)

/-- The clamp masks byte 0, sets bit 7 of byte 55 and keeps the other bytes (R152). -/
theorem byteOf_clampScalar (k : FieldVal) {j : Nat} (hj : j < 56) :
    byteOf (clampScalar k) j =
      if j = 55 then byteOf k 55 ||| 0x80 else if j = 0 then byteOf k 0 &&& 0xFC else byteOf k j := by
  rw [clampScalar, byteOf_setByte _ _ (by decide) hj, byteOf_setByte _ _ (by decide) hj]

/-- A bit of a value is a bit of a byte of it. -/
theorem getLsbD_eq_byteOf (x : FieldVal) (i : Nat) : x.getLsbD i = (byteOf x (i / 8)).getLsbD (i % 8) := by
  have low : i % 8 < 8 := by omega
  simp [byteOf, low, Nat.div_add_mod]

/-- The clamp by bits (R152). -/
theorem testBit_clampScalar (k : FieldVal) {i : Nat} (hi : i < 448) :
    (val (clampScalar k)).testBit i = (decide (i = 447) || decide (2 ≤ i) && (val k).testBit i) := by
  have mask : ∀ j < 8, (0xFC : BitVec 8).getLsbD j = decide (2 ≤ j) := by decide
  have top : ∀ j < 8, (0x80 : BitVec 8).getLsbD j = decide (j = 7) := by decide
  have low : i % 8 < 8 := by omega
  change (clampScalar k).getLsbD i = (decide (i = 447) || decide (2 ≤ i) && k.getLsbD i)
  rw [getLsbD_eq_byteOf, byteOf_clampScalar k (by omega), getLsbD_eq_byteOf k i]
  split_ifs with last first
  · have same : i % 8 = 7 ↔ i = 447 := by omega
    have two : 2 ≤ i := by omega
    rw [BitVec.getLsbD_or, top _ low, last]
    simp [same, two, Bool.or_comm]
  · have same : 2 ≤ i % 8 ↔ 2 ≤ i := by omega
    have other : i ≠ 447 := by omega
    rw [BitVec.getLsbD_and, mask _ low, first]
    simp [same, other, Bool.and_comm]
  · have two : 2 ≤ i := by omega
    have other : i ≠ 447 := by omega
    simp [two, other]

/-- The clamp's arithmetic by bits. -/
theorem testBit_clampNat (k : Nat) {i : Nat} (hi : i < 448) :
    (clampNat k).testBit i = (decide (i = 447) || decide (2 ≤ i) && k.testBit i) := by
  have small : k % 2 ^ 447 / 2 ^ 2 * 2 ^ 2 < 2 ^ 447 := by omega
  have form : clampNat k = 2 ^ 447 ||| k % 2 ^ 447 / 2 ^ 2 * 2 ^ 2 := by
    have disjoint := Nat.two_pow_add_eq_or_of_lt small 1
    rw [mul_one] at disjoint
    rw [← disjoint, add_comm]
    rfl
  rw [form, Nat.testBit_or, Nat.testBit_two_pow, Nat.testBit_mul_two_pow, Nat.testBit_div_two_pow,
    Nat.testBit_mod_two_pow]
  by_cases two : 2 ≤ i
  · have back : i - 2 + 2 = i := by omega
    by_cases last : i = 447
    · simp [last]
    · have below : i < 447 := by omega
      simp [two, last, back, below, Ne.symm last]
  · have other : i ≠ 447 := by omega
    simp [two, other.symm, other]

theorem val_clampScalar (k : FieldVal) : val (clampScalar k) = clampNat (val k) := by
  have bound : clampNat (val k) < 2 ^ 448 := by
    unfold clampNat
    omega
  refine Nat.eq_of_testBit_eq fun i => ?_
  by_cases hi : i < 448
  · rw [testBit_clampScalar k hi, testBit_clampNat (val k) hi]
  · have high : 2 ^ 448 ≤ 2 ^ i := Nat.pow_le_pow_right (by decide) (by omega)
    rw [Nat.testBit_lt_two_pow (lt_of_lt_of_le (clampScalar k).isLt high),
      Nat.testBit_lt_two_pow (lt_of_lt_of_le bound high)]

theorem clampScalar_eq_enc (k : FieldVal) : clampScalar k = enc (clampNat (val k)) := by
  rw [← val_clampScalar, enc_val]

theorem clampNat_clampNat (k : Nat) : clampNat (clampNat k) = clampNat k := by
  unfold clampNat
  omega

theorem clampNat_bounds (k : Nat) : clampNat k % 4 = 0 ∧ 2 ^ 447 ≤ clampNat k ∧ clampNat k ≤ 2 ^ 448 - 4 := by
  unfold clampNat
  omega

/-- Settles O54, by bytes and by the arithmetic of the value. -/
theorem clampCompletes : Obligations.ClampCompletes := by
  unfold Obligations.ClampCompletes
  refine ⟨fun s rd rs1 => clampScalar_eq_enc _ ▸ exec_clamp s rd rs1, fun k => ?_, ?_, ?_⟩
  · obtain ⟨multiple, least, greatest⟩ := clampNat_bounds (val k)
    rw [val_clampScalar]
    refine ⟨byteOf_clampScalar k (by decide), byteOf_clampScalar k (by decide), fun j low high => ?_, rfl, multiple,
      least, greatest, ?_⟩
    · rw [byteOf_clampScalar k (by omega), if_neg (by omega), if_neg (by omega)]
    · rw [clampScalar_eq_enc (clampScalar k), val_clampScalar, clampNat_clampNat, ← clampScalar_eq_enc]
  · exact (clampScalar_eq_enc 0).trans (congrArg enc (by decide))
  · exact (clampScalar_eq_enc _).trans (congrArg enc (by decide))

/-! ### The bits of the scalar, LADDER and X448 -/

/-- Settles O55. -/
theorem scalarBits : Obligations.ScalarBits := by
  unfold Obligations.ScalarBits
  exact fun k i _ => scalarBit_eq_testBit k i

/-- X448 computes the plain ladder on the scalar clamped as arithmetic (R159). -/
theorem x448_eq_refLadder (P : PRep) (h : Hidden) (u k : FieldVal) :
    x448 P h u k = enc (refLadder (val u) (clampNat (val k))) := by
  rw [x448, ladder_eq_refLadder, val_clampScalar]

theorem val_enc_refLadder_lt (u k : Nat) : val (enc (refLadder u k)) < p := by
  rw [val_enc (lt_trans (refLadder_lt u k) p_lt)]
  exact refLadder_lt u k

/-- Settles O56: under the machine's P_REP, as under any, the ladder is the plain one. -/
theorem ladderRefinesResidueLadder : Obligations.LadderRefinesResidueLadder := by
  unfold Obligations.LadderRefinesResidueLadder
  intro s rd rs1 rs2
  obtain ⟨t, run, w⟩ := exec_ladder s rd rs1 rs2 s.hidden
  rw [ladder_eq_refLadder] at w
  exact ⟨t, run, w, w.result ▸ val_enc_refLadder_lt _ _⟩

/-- Settles O57: the same ladder, on the clamped scalar. -/
theorem x448RefinesResidueLadder : Obligations.X448RefinesResidueLadder := by
  unfold Obligations.X448RefinesResidueLadder
  intro s rd rs1 rs2
  obtain ⟨t, run, w⟩ := exec_x448 s rd rs1 rs2 s.hidden
  rw [x448_eq_refLadder] at w
  exact ⟨t, run, w, w.result ▸ val_enc_refLadder_lt _ _⟩

end Sys2Proof.Machine
end

section
/-! PROOFS. The corner cases of LADDER and X448 (O59, O60; 41_scalarmult.md R158, R159). A property of both points that
every iteration keeps holds after them all. Nothing here says that p is prime, so a coordinate that would vanish by a
division is instead a factor of a product that is 0. -/

set_option exponentiation.threshold 1000

namespace Sys2Proof.Machine

open Sys2Proof.Claims

/-! ### Points of small order: doubling and addition in any ring (R156) -/

section
variable {R : Type*} [CommRing R]

/-- A coordinate is 0. -/
def OrderTwo (x z : R) : Prop := x * z = 0

/-- A coordinate is 0, or the two are equal or opposite. -/
def OrderFour (x z : R) : Prop := x * z * (x ^ 2 - z ^ 2) = 0

theorem orderTwo_of_z_zero {x z : R} (zero : z = 0) : OrderTwo x z := by
  rw [OrderTwo, zero, mul_zero]

theorem orderFour_of_orderTwo {x z : R} (order : OrderTwo x z) : OrderFour x z := by
  unfold OrderTwo at order
  rw [OrderFour, order, zero_mul]

/-- Doubling a point of `OrderTwo` has Z 0: E is four times the product of the coordinates. -/
theorem double_z_eq_zero {x z : R} (order : OrderTwo x z) (c : R) : ((x + z) ^ 2 - (x - z) ^ 2) * c = 0 := by
  unfold OrderTwo at order
  linear_combination 4 * c * order

/-- Doubling a point of `OrderFour` gives one of `OrderTwo`. -/
theorem orderTwo_double {x z : R} (order : OrderFour x z) (c : R) :
    OrderTwo ((x + z) ^ 2 * (x - z) ^ 2) (((x + z) ^ 2 - (x - z) ^ 2) * c) := by
  unfold OrderFour at order
  unfold OrderTwo
  linear_combination 4 * c * (x ^ 2 - z ^ 2) * order

/-- The sum and the difference of DA and CB make a point of `OrderFour` of two such points. -/
theorem orderFour_sum_difference {x2 z2 x3 z3 : R} (first : OrderFour x2 z2) (second : OrderFour x3 z3) :
    OrderFour ((x3 - z3) * (x2 + z2) + (x3 + z3) * (x2 - z2)) ((x3 - z3) * (x2 + z2) - (x3 + z3) * (x2 - z2)) := by
  unfold OrderFour at *
  linear_combination 16 * (x3 ^ 4 - z3 ^ 4) * first - 16 * (x2 ^ 4 - z2 ^ 4) * second

/-- Their squares, the second times X1, make one too where (X1 : 1) is of `OrderFour`, as then X1^3 is X1. -/
theorem orderFour_square {x1 a b : R} (base : OrderFour x1 1) (order : OrderFour a b) :
    OrderFour (a ^ 2) (x1 * b ^ 2) := by
  unfold OrderFour at *
  linear_combination x1 * a * b * (a ^ 2 + b ^ 2) * order - a ^ 2 * b ^ 6 * base

end

/-! ### What STEP and an iteration keep -/

/-- Both points have the property `C` of a point's two coordinates. -/
def BothPoints (C : ZMod p → ZMod p → Prop) (q : Points) : Prop := C q.x2 q.z2 ∧ C q.x3 q.z3

theorem Points.step_z2_of_orderTwo {q : Points} (order : OrderTwo q.x2 q.z2) (x1 : ZMod p) : (q.step x1).z2 = 0 :=
  double_z_eq_zero order _

theorem Points.step_orderTwo_of_orderFour {q : Points} (order : OrderFour q.x2 q.z2) (x1 : ZMod p) :
    OrderTwo (q.step x1).x2 (q.step x1).z2 :=
  orderTwo_double order _

/-- With X1 of residue 0 the addition has Z 0. -/
theorem Points.step_keeps_orderTwo {x1 : ZMod p} (base : x1 = 0) {q : Points} (both : BothPoints OrderTwo q) :
    BothPoints OrderTwo (q.step x1) :=
  ⟨orderTwo_of_z_zero (Points.step_z2_of_orderTwo both.1 x1), orderTwo_of_z_zero (mul_eq_zero_of_left base _)⟩

/-- With X1 of residue 0, 1 or -1 the points stay of `OrderFour`. -/
theorem Points.step_keeps_orderFour {x1 : ZMod p} (base : OrderFour x1 1) {q : Points} (both : BothPoints OrderFour q) :
    BothPoints OrderFour (q.step x1) :=
  ⟨orderFour_of_orderTwo (Points.step_orderTwo_of_orderFour both.1 x1),
    orderFour_square base (orderFour_sum_difference both.1 both.2)⟩

theorem bothPoints_swap {C : ZMod p → ZMod p → Prop} {q : Points} (both : BothPoints C q) (b : Bool) :
    BothPoints C (q.swap b) := by
  cases b
  · exact both
  · exact both.symm

/-- The loop's equation (R155). -/
theorem refLoop_succ (x1 : ZMod p) (k n : Nat) (q : Points) :
    refLoop x1 k (n + 1) q = refLoop x1 k n (((q.swap (k.testBit n)).step x1).swap (k.testBit n)) := rfl

/-- A property of the points that the iterations keep holds when `m` of the `n` are left. -/
theorem refLoop_keeps {x1 : ZMod p} {k : Nat} {I : Points → Prop}
    (keeps : ∀ q i, I q → I (((q.swap (k.testBit i)).step x1).swap (k.testBit i))) {m n : Nat} (left : m ≤ n)
    {q : Points} (start : I q) : ∃ r, I r ∧ refLoop x1 k n q = refLoop x1 k m r := by
  induction n, left using Nat.le_induction generalizing q with
  | base => exact ⟨q, start, rfl⟩
  | succ n _ ih => exact ih (keeps q n start)

/-- A property of both points that STEP keeps, whatever the scalar's bits. -/
theorem refLoop_keeps_both {x1 : ZMod p} {C : ZMod p → ZMod p → Prop}
    (step : ∀ {q : Points}, BothPoints C q → BothPoints C (q.step x1)) (k : Nat) {m n : Nat} (left : m ≤ n)
    {q : Points} (start : BothPoints C q) : ∃ r, BothPoints C r ∧ refLoop x1 k n q = refLoop x1 k m r :=
  refLoop_keeps (I := BothPoints C)
    (fun _ i both => bothPoints_swap (step (bothPoints_swap both (k.testBit i))) (k.testBit i)) left start

/-! ### The plain ladder -/

theorem refLadder_congr {u u' : Nat} (same : u % p = u' % p) (k : Nat) : refLadder u k = refLadder u' k := by
  have residues : (u : ZMod p) = (u' : ZMod p) := (ZMod.natCast_eq_natCast_iff' _ _ p).mpr same
  rw [refLadder, refLadder, residues]

/-- The result is 0 when the first point ends with a coordinate 0. -/
theorem refLadder_eq_zero {u k : Nat} {q : Points} (loop : refLoop u k 448 ⟨1, 0, u, 1⟩ = q)
    (order : OrderTwo q.x2 q.z2) : refLadder u k = 0 := by
  have exponent : p - 2 = p - 3 + 1 := by decide
  unfold OrderTwo at order
  rw [refLadder, loop, exponent, pow_succ', ← mul_assoc, order, zero_mul, ZMod.val_zero]

/-- With the scalar 0 the first point is doubled from (1 : 0), and its Z stays 0 (R158). -/
theorem refLadder_scalar_zero (u : Nat) : refLadder u 0 = 0 := by
  have start : (⟨1, 0, u, 1⟩ : Points).z2 = 0 := rfl
  have keeps (q : Points) (i : Nat) (zero : q.z2 = 0) :
      (((q.swap (Nat.testBit 0 i)).step u).swap (Nat.testBit 0 i)).z2 = 0 := by
    rw [Nat.zero_testBit]
    exact Points.step_z2_of_orderTwo (orderTwo_of_z_zero zero) u
  obtain ⟨r, zero, loop⟩ := refLoop_keeps keeps (Nat.zero_le 448) start
  exact refLadder_eq_zero loop (orderTwo_of_z_zero zero)

/-- With a point of residue 0 both points stay of `OrderTwo` (R158). -/
theorem refLadder_point_zero {u : Nat} (zero : (u : ZMod p) = 0) (k : Nat) : refLadder u k = 0 := by
  have start : BothPoints OrderTwo ⟨1, 0, u, 1⟩ := ⟨orderTwo_of_z_zero rfl, mul_eq_zero_of_left zero 1⟩
  obtain ⟨r, both, loop⟩ :=
    refLoop_keeps_both (C := OrderTwo) (Points.step_keeps_orderTwo zero) k (Nat.zero_le 448) start
  exact refLadder_eq_zero loop both.1

/-- With a point of residue 0, 1 or -1 both points stay of `OrderFour`, and the last two iterations of a multiple of 4
double the first one twice (R159). -/
theorem refLadder_orderFour {u k : Nat} (base : OrderFour (u : ZMod p) 1) (multiple : k % 4 = 0) :
    refLadder u k = 0 := by
  have bit0 : k.testBit 0 = false := by
    rw [Nat.testBit_zero]
    exact decide_eq_false (by omega)
  have bit1 : k.testBit 1 = false := by
    rw [Nat.testBit_succ, Nat.testBit_zero]
    exact decide_eq_false (by omega)
  have two : 2 ≤ 448 := by decide
  have start : BothPoints OrderFour ⟨1, 0, u, 1⟩ := ⟨orderFour_of_orderTwo (orderTwo_of_z_zero rfl), base⟩
  obtain ⟨r, both, loop⟩ := refLoop_keeps_both (C := OrderFour) (Points.step_keeps_orderFour base) k two start
  have twice : refLoop u k 2 r = (r.step u).step u := by
    rw [refLoop_succ, refLoop_succ, bit0, bit1]
    rfl
  exact refLadder_eq_zero (loop.trans twice)
    (orderTwo_of_z_zero (Points.step_z2_of_orderTwo (Points.step_orderTwo_of_orderFour both.1 u) u))

/-! ### LADDER and X448 -/

/-- Settles O59, by the plain ladder's corner cases. -/
theorem ladderCorners : Obligations.LadderCorners := by
  unfold Obligations.LadderCorners
  intro P h u u' k
  simp only [ladder_eq_refLadder]
  refine ⟨congrArg enc (refLadder_scalar_zero _), fun zero => ?_, fun same => ?_⟩
  · have residue : (val u : ZMod p) = 0 := (ZMod.natCast_eq_zero_iff _ _).mpr (Nat.dvd_of_mod_eq_zero zero)
    exact congrArg enc (refLadder_point_zero residue _)
  · rw [refLadder_congr same]

/-- The residues 0, 1 and p - 1 are those of points of `OrderFour`. -/
theorem orderFour_of_mod {v : Nat} (small : v % p = 0 ∨ v % p = 1 ∨ v % p = p - 1) : OrderFour (v : ZMod p) 1 := by
  rw [← ZMod.natCast_mod, OrderFour]
  rcases small with zero | one | minus_one
  · simp [zero]
  · simp [one]
  · have opposite : ((p - 1 : Nat) : ZMod p) = -1 := by
      rw [Nat.cast_sub p_pos, ZMod.natCast_self, Nat.cast_one, zero_sub]
    simp [minus_one, opposite]

/-- Settles O60: a clamped scalar is a multiple of 4. -/
theorem x448Corners : Obligations.X448Corners := by
  unfold Obligations.X448Corners
  intro P h u u' k k'
  simp only [x448_eq_refLadder]
  refine ⟨fun same => ?_, fun small => ?_, fun same => ?_⟩
  · rw [clampNat, clampNat, same]
  · exact congrArg enc (refLadder_orderFour (orderFour_of_mod small) (clampNat_bounds _).1)
  · rw [refLadder_congr same]

end Sys2Proof.Machine
end

section
/-! PROOFS. Errors and the data they do not depend on (O9, O17, O29, O30, O36; 60_exceptions.md): the STATUS word, what
sets and clears the error record, and that every operation takes states alike in their control registers to such states. -/

set_option exponentiation.threshold 1000

namespace Sys2Proof.Claims

open Sys2Proof.Machine

/-! ### Control is independent of data -/

theorem SameControl.symm {s t : State} (h : SameControl s t) : SameControl t s :=
  ⟨h.busy.symm, h.done.symm, h.err.symm, h.errcode.symm, h.errinfo.symm, h.ie.symm, h.lastcmd.symm, h.pend.symm,
    h.inbox.symm⟩

theorem SameControl.trans {s t u : State} (h : SameControl s t) (k : SameControl t u) : SameControl s u :=
  ⟨h.busy.trans k.busy, h.done.trans k.done, h.err.trans k.err, h.errcode.trans k.errcode, h.errinfo.trans k.errinfo,
    h.ie.trans k.ie, h.lastcmd.trans k.lastcmd, h.pend.trans k.pend, h.inbox.trans k.inbox⟩

/-- States that are each like one of two states alike are alike. -/
theorem SameControl.congr {s t s' t' : State} (h : SameControl s t) (left : SameControl s' s)
    (right : SameControl t' t) : SameControl s' t' :=
  left.trans (h.trans right.symm)

/-- The store of a data word is no change of a control register. -/
theorem sameControl_writeFieldWord (s : State) (n : FReg) (j : Fin 14) (v : Word) :
    SameControl (s.writeFieldWord n j v) s :=
  ⟨rfl, rfl, rfl, rfl, rfl, rfl, rfl, rfl, rfl⟩

theorem sameControl_respond (s : State) (w : Word) : SameControl (s.respond w) s :=
  ⟨rfl, rfl, rfl, rfl, rfl, rfl, rfl, rfl, rfl⟩

/-- A legal read changes no control register. -/
theorem sameControl_windowRead (s : State) (r : WindowReg) : SameControl (s.windowRead r) s := by
  rw [windowRead_eq]
  exact ⟨rfl, rfl, rfl, rfl, rfl, rfl, rfl, rfl, rfl⟩

/-- Every command's completion leaves the control registers that NOP's leaves (30_encoding.md R77). -/
theorem sameControl_complete {i : Instr} {s t : State} (run : exec i s = .next t) : SameControl t s.complete :=
  have done := completed_of_exec run
  ⟨done.busy, done.done, done.err, done.errcode, done.errinfo, done.ie, done.lastcmd, done.pend, exec_inbox run⟩

section
variable {s t : State} (h : SameControl s t)
include h

theorem SameControl.withInbox (l : List HostOp) : SameControl { s with inbox := l } { t with inbox := l } :=
  ⟨h.busy, h.done, h.err, h.errcode, h.errinfo, h.ie, h.lastcmd, h.pend, rfl⟩

theorem SameControl.raiseError (c : ErrCause) (info : Word) :
    SameControl (s.raiseError c info) (t.raiseError c info) := by
  constructor <;> simp [h.busy, h.done, h.err, h.errcode, h.errinfo, h.ie, h.lastcmd, h.pend, h.inbox]

theorem SameControl.writeStatus (v : Word) : SameControl (s.writeStatus v) (t.writeStatus v) := by
  constructor <;> simp [h.busy, h.done, h.err, h.errcode, h.errinfo, h.ie, h.lastcmd, h.pend, h.inbox]

/-- An acceptance depends on the word alone; that it reads the sources' marks shows in the run's mark only. -/
theorem SameControl.accept (w : Word) (i : Instr) :
    SameControl ((s.noteReads (sourcesOf i)).accept w i) ((t.noteReads (sourcesOf i)).accept w i) :=
  ⟨rfl, rfl, h.err, h.errcode, h.errinfo, h.ie, rfl, rfl, h.inbox⟩

/-- The checks of a command word look at BUSY and the word (60_exceptions.md R208). -/
theorem SameControl.presentCommand (w : Word) : SameControl (s.presentCommand w) (t.presentCommand w) := by
  unfold State.presentCommand
  rw [h.busy]
  split
  · exact h.raiseError _ w
  · split
    · exact h.accept w _
    · exact h.raiseError _ w
    · exact h.raiseError _ w

theorem SameControl.windowWrite (r : WindowReg) (v info : Word) :
    SameControl (s.windowWrite r v info) (t.windowWrite r v info) := by
  cases r with
  | status => exact h.writeStatus v
  | ctrl => exact ⟨h.busy, h.done, h.err, h.errcode, h.errinfo, rfl, h.lastcmd, h.pend, h.inbox⟩
  | cmd => exact h.presentCommand v
  | field n j =>
    unfold State.windowWrite
    dsimp only
    rw [h.busy]
    split
    · exact h.raiseError _ info
    · exact h.congr (sameControl_writeFieldWord s n j v) (sameControl_writeFieldWord t n j v)
  | id | errinfo | padding | reserved => exact h

theorem SameControl.windowRead (r : WindowReg) : SameControl (s.windowRead r) (t.windowRead r) :=
  h.congr (sameControl_windowRead s r) (sameControl_windowRead t r)

theorem SameControl.badAccess (a : Access) : SameControl (s.badAccess a) (t.badAccess a) := by
  have raised := h.raiseError .badAccess a.info
  unfold State.badAccess
  cases a.kind with
  | read => exact raised.congr (sameControl_respond _ 0) (sameControl_respond _ 0)
  | write v => exact raised

/-- The checks of an access look at its width and offset (R208). -/
theorem SameControl.windowAccess (a : Access) : SameControl (s.windowAccess a) (t.windowAccess a) := by
  unfold State.windowAccess
  split
  · cases a.kind with
    | read => exact h.windowRead _
    | write v => exact h.windowWrite _ v _
  · exact h.badAccess a

theorem SameControl.hostAccess (a : Access) : SameOutcome SameControl (s.hostAccess a) (t.hostAccess a) := by
  unfold State.hostAccess
  split
  · exact h.windowAccess a
  · rfl

theorem SameControl.complete : SameControl s.complete t.complete :=
  ⟨rfl, rfl, h.err, h.errcode, h.errinfo, h.ie, h.lastcmd, rfl, h.inbox⟩

/-- Every command completes, whatever its operands, and completions write the same control registers
(60_exceptions.md R200). -/
theorem SameControl.exec (i : Instr) : SameOutcome SameControl (exec i s) (exec i t) := by
  obtain ⟨s', run⟩ := exec_next i s
  obtain ⟨t', run'⟩ := exec_next i t
  rw [run, run']
  exact h.complete.congr (sameControl_complete run) (sameControl_complete run')

theorem SameControl.engineTurn : SameOutcome SameControl (engineTurn s) (engineTurn t) := by
  unfold Machine.engineTurn
  rw [h.busy, h.pend]
  split
  · exact h.exec _
  · exact h

end

end Sys2Proof.Claims

namespace Sys2Proof.Machine

open Sys2Proof.Claims

/-- Settles O36, by the operation that stands next. -/
theorem controlIsIndependentOfData : Obligations.ControlIsIndependentOfData := by
  unfold Obligations.ControlIsIndependentOfData
  intro s t h
  unfold step
  rw [h.inbox]
  split
  · exact h.engineTurn
  · exact (h.withInbox _).engineTurn
  · exact (h.withInbox _).hostAccess _
  · rw [h.busy]
    split
    · split
      · exact h.engineTurn
      · exact (h.withInbox _).windowRead .status
    · exact (h.withInbox _).windowRead .status
  · exact ⟨rfl, rfl, rfl, rfl, rfl, rfl, rfl, rfl, rfl⟩

/-! ### STATUS -/

/-- The fields of the word {24'b0, ERRCODE, 1'b0, ERR, DONE, BUSY} above its two lowest bits (10_state.md R24). -/
theorem flagsWord_fields (c : BitVec 4) (e d b : Bool) :
    let r := 0#24 ++ c ++ 0#1 ++ BitVec.ofBool e ++ BitVec.ofBool d ++ BitVec.ofBool b
    r[2] = e ∧ r[3] = false ∧ r.extractLsb' 4 4 = c ∧ r.extractLsb' 8 24 = 0 := by
  intro r
  refine ⟨?_, ?_, ?_, ?_⟩ <;> unfold r
  · simp only [BitVec.getElem_append]
    simp
  · simp only [BitVec.getElem_append]
    simp
  · iterate 4 rw [BitVec.extractLsb'_append_eq_of_le (by decide)]
    exact BitVec.extractLsb'_append_eq_right
  · iterate 5 rw [BitVec.extractLsb'_append_eq_of_le (by decide)]
    exact BitVec.extractLsb'_eq_self

/-- Settles O17, by the fields of the STATUS word and by what a write to STATUS clears. -/
theorem statusReadAndWrite : Obligations.StatusReadAndWrite := by
  unfold Obligations.StatusReadAndWrite
  intro s v rest
  obtain ⟨bit0, bit1⟩ := statusWord_busy_done s
  refine ⟨⟨s.statusWord, step_hostRead s rest (by decide) (by decide), bit0, bit1, flagsWord_fields _ _ _ _⟩,
    _, step_writeStatus s v rest, ?_, ?_, ?_, ?_, rfl⟩
  · cases bit : v[1] <;> simp [bit]
  · cases bit : v[2] <;> simp [bit]
  · intro set
    simp [set]
  · intro clear
    simp [clear]

/-! ### The error record -/

/-- Settles O29, by the events of a step: a completion leaves the record and a later error is dropped. -/
theorem firstErrorWins : Obligations.FirstErrorWins := by
  unfold Obligations.FirstErrorWins
  intro s t next recorded
  cases step_event next with
  | completion i busy pend run =>
    have done := completed_of_exec run
    exact .inl ⟨done.err.trans recorded, done.errcode, done.errinfo⟩
  | statusWrite v rest op =>
    cases bit : v[2] with
    | true => exact .inr (.inl ⟨v, op, bit⟩)
    | false => exact .inl (by simp [bit, recorded])
  | error o c info d rest src op => exact .inl (by simp [recorded])
  | reset rest op => exact .inr (.inr op)
  | _ => exact .inl ⟨recorded, rfl, rfl⟩

/-- ERR is set by the error entry alone. -/
theorem StepEvent.raiseError_of_err_set {s t : State} (ev : StepEvent s t) (clear : s.err = false)
    (set : t.err = true) :
    ∃ o c info d rest, ErrorSource s o c info ∧ s.inbox = o :: rest ∧
      t = (({ s with inbox := rest } : State).raiseError c info).respond d := by
  cases ev with
  | completion i busy pend run => simp [(completed_of_exec run).err, clear] at set
  | error o c info d rest src op => exact ⟨o, c, info, d, rest, src, op, rfl⟩
  | reset rest op => cases set
  | statusWrite v rest op => simp [clear] at set
  | _ => exact absurd (clear.symm.trans set) (by decide)

theorem ErrorSource.isAccess {s : State} {o : HostOp} {c : ErrCause} {info : Word} (src : ErrorSource s o c info) :
    ∃ a, o = .access a := by
  cases src <;> exact ⟨_, rfl⟩

theorem ErrCause.code_bounds (c : ErrCause) : 1 ≤ c.code.toNat ∧ c.code.toNat ≤ 5 := by
  cases c <;> decide

/-- Settles O30: ERR is set by the error entry, which writes nothing but the record (60_exceptions.md R207). -/
theorem errorsArePrecise : Obligations.ErrorsArePrecise := by
  unfold Obligations.ErrorsArePrecise
  intro s t next clear set
  obtain ⟨o, c, info, d, rest, src, op, rfl⟩ := (step_event next).raiseError_of_err_set clear set
  obtain ⟨a, rfl⟩ := src.isAccess
  obtain ⟨low, high⟩ := c.code_bounds
  refine ⟨⟨a, by simpa using op⟩, by simpa [clear] using low, by simpa [clear] using high, ?_⟩
  simp

/-- Settles O9: every completion is a next state, and the inverse of a value of residue 0 is 0. -/
theorem noCommandFails : Obligations.NoCommandFails := by
  unfold Obligations.NoCommandFails
  refine ⟨exec_completed, fun s rd rs1 zero => ?_⟩
  obtain ⟨t, run, w⟩ := exec_finv s rd rs1
  have residue : val (s.readF rs1) % p = 0 := by simp [zero, val]
  exact ⟨t, run, w.result.trans (inv_of_residue_zero Config.pRep residue)⟩

end Sys2Proof.Machine
end

section
/-! PROOFS. The reset event and the command after it (O13; 70_reset_and_hazards.md R230, R231). -/

namespace Sys2Proof.Machine

open Sys2Proof.Claims

/-- The command word of any command, written to CMD of an idle engine, is accepted. -/
theorem step_accept_encode {s : State} (i : Instr) (rest : List HostOp) (idle : s.busy = false) :
    step { s with inbox := hostWrite 0x00C (encode i) :: rest } =
      .next ((({ s with inbox := rest }).noteReads (sourcesOf i)).accept (encode i) i) :=
  step_accept rest idle (decodeOfEncode i)

/-- Settles O13: the reset event leaves the engine idle with the CMD write next, which an idle engine accepts. -/
theorem resetEventLeaves : Obligations.ResetEventLeaves := by
  unfold Obligations.ResetEventLeaves
  intro s i rest
  have reset := applyReset_values { s with inbox := hostWrite 0x00C (encode i) :: rest }
  refine ⟨_, _, step_reset s _, reset, rfl, step_accept_encode i rest reset.busy, rfl, rfl, rfl, ?_⟩
  simpa using reset.err

end Sys2Proof.Machine
end

section
/-! PROOFS. What a completion leaves of the hidden registers and of the model's own fields (O52), the mark of a faulted
run (O38; 10_state.md R23), and the access outside the window (O27). -/

namespace Sys2Proof.Machine

open Sys2Proof.Claims

/-! ### The window's edge -/

/-- Settles O27: an access is inside the window or stops. -/
theorem outsideWindowStops : Obligations.OutsideWindowStops := by
  unfold Obligations.OutsideWindowStops
  intro s a rest outside
  rcases hostAccess_cases { s with inbox := rest } a with ⟨inside, -⟩ | ⟨-, stop⟩
  · exact absurd inside (Nat.not_lt.mpr outside)
  · exact stop

/-! ### The reads of a command's sources -/

theorem State.noteReads_nil (s : State) : s.noteReads [] = s := by
  simp [State.noteReads]

theorem State.noteReads_singleton (s : State) (n : FReg) : s.noteReads [n] = s.noteRead n := by
  simp [State.noteReads, State.noteRead]

theorem State.noteReads_pair (s : State) (m n : FReg) : s.noteReads [m, n] = (s.noteRead m).noteRead n := by
  simp [State.noteReads, State.noteRead, State.isWritten, Bool.or_assoc]

theorem sourcesOf_twoOperand (rd rs1 : FReg) : ∀ mk ∈ twoOperand, sourcesOf (mk rd rs1) = [rs1] := by
  simp [twoOperand, sourcesOf]

theorem sourcesOf_threeOperand (rd rs1 rs2 : FReg) :
    ∀ mk ∈ threeOperand, sourcesOf (mk rd rs1 rs2) = [rs1, rs2] := by
  simp [threeOperand, sourcesOf]

/-! ### The model's own fields after a completion -/

/-- A completion leaves the last word read. -/
theorem exec_rdata {i : Instr} {s t : State} (run : exec i s = .next t) : t.rdata = s.rdata := by
  cases i <;> cases run <;> rfl

/-- A completion marks the run as the read of its command's sources does, and the writes after that read leave the
mark. -/
theorem exec_runFault {i : Instr} {s t : State} (run : exec i s = .next t) :
    t.runFault = (s.noteReads (sourcesOf i)).runFault := by
  cases i with
  | nop =>
    rw [sourcesOf, State.noteReads_nil]
    cases run
    rfl
  | fnorm _ rs1 | fcopy _ rs1 | fmulc _ rs1 | fsqr _ rs1 | finv _ rs1 | clamp _ rs1 =>
    rw [sourcesOf, State.noteReads_singleton]
    cases run
    rfl
  | fcswap rs1 rs2 | fadd _ rs1 rs2 | fsub _ rs1 rs2 | fmul _ rs1 rs2 | ladder _ rs1 rs2 | x448 _ rs1 rs2 =>
    rw [sourcesOf, State.noteReads_pair]
    cases run
    rfl

/-- What a completion leaves of the model's own fields, for the command's own sources. -/
theorem ownFields_of_exec {i : Instr} {s t : State} (run : exec i s = .next t) : OwnFields s t (sourcesOf i) where
  inbox := exec_inbox run
  rdata := exec_rdata run
  runFault := by rw [exec_runFault run, State.noteReads_runFault_iff]

/-- Every command's completion is a next state with the model's own fields as its sources say. -/
theorem exec_ownFields {i : Instr} {srcs : List FReg} (s : State) (sources : sourcesOf i = srcs) :
    ∃ t, exec i s = .next t ∧ OwnFields s t srcs := by
  obtain ⟨t, run⟩ := exec_next i s
  exact ⟨t, run, sources ▸ ownFields_of_exec run⟩

/-! ### The hidden registers after a completion -/

theorem keepsHidden_command1 (s : State) (rd rs1 : FReg) (g : FieldVal → FieldVal) :
    KeepsHidden s (s.command1 rd rs1 g) := ⟨rfl, rfl⟩

theorem keepsHidden_command2 (s : State) (rd rs1 rs2 : FReg) (g : FieldVal → FieldVal → FieldVal) :
    KeepsHidden s (s.command2 rd rs1 rs2 g) := ⟨rfl, rfl⟩

/-- A multiply or square changes ACC alone (10_state.md R33). -/
theorem hidden_freeAcc {s t : State} (keeps : KeepsHidden s t) :
    { t.freeAcc.hidden with acc := s.hidden.acc } = s.hidden := by
  obtain ⟨same, -⟩ := keeps
  rw [← same]
  rfl

/-- An inversion changes ACC and its temporary alone (R33). -/
theorem hidden_freeInv {s t : State} (keeps : KeepsHidden s t) :
    { t.freeInv.hidden with acc := s.hidden.acc, finvT := s.hidden.finvT } = s.hidden := by
  obtain ⟨same, -⟩ := keeps
  rw [← same]
  rfl

/-- Settles O52: the own fields follow from the command's sources, the hidden registers from the shared completion
and from what a multiply, a square or an inversion frees. -/
theorem completionFrame : Obligations.CompletionFrame := by
  unfold Obligations.CompletionFrame
  refine ⟨fun s => ⟨_, rfl, ⟨rfl, rfl⟩, ownFields_of_exec (i := .nop) rfl⟩,
    fun s rd rs1 mk mem => exec_ownFields s (sourcesOf_twoOperand rd rs1 mk mem),
    fun s rd rs1 rs2 mk mem => exec_ownFields s (sourcesOf_threeOperand rd rs1 rs2 mk mem),
    fun s rs1 rs2 b => ⟨_, rfl, ⟨rfl, rfl⟩, ownFields_of_exec (i := .fcswap rs1 rs2 b) rfl⟩, ?_, ?_,
    fun s rd rs1 rs2 => ⟨_, rfl, hidden_freeAcc (keepsHidden_command2 s rd rs1 rs2 _)⟩,
    fun s rd rs1 => ⟨_, rfl, hidden_freeAcc (keepsHidden_command1 s rd rs1 _)⟩,
    fun s rd rs1 => ⟨_, rfl, hidden_freeInv (keepsHidden_command1 s rd rs1 _)⟩⟩
  · intro s rd rs1 mk mem
    simp only [List.mem_cons, List.not_mem_nil, or_false] at mem
    rcases mem with rfl | rfl | rfl | rfl <;> exact ⟨_, rfl, keepsHidden_command1 s rd rs1 _⟩
  · intro s rd rs1 rs2 mk mem
    simp only [List.mem_cons, List.not_mem_nil, or_false] at mem
    rcases mem with rfl | rfl <;> exact ⟨_, rfl, keepsHidden_command2 s rd rs1 rs2 _⟩

/-! ### The mark of a faulted run -/

/-- The completion of a command with an unwritten source marks the run. -/
theorem exec_marks_run {i : Instr} {s : State} {n : FReg} (source : n ∈ sourcesOf i)
    (unwritten : s.isWritten n = false) : ∃ t, exec i s = .next t ∧ t.runFault = true := by
  obtain ⟨t, run⟩ := exec_next i s
  exact ⟨t, run, (ownFields_of_exec run).runFault.mpr (.inr ⟨n, source, unwritten⟩)⟩

/-- The completion of a command with two sources, one of them unwritten, marks the run. -/
theorem exec_marks_run_of_pair {i : Instr} {s : State} {m n : FReg} (sources : sourcesOf i = [m, n])
    (unwritten : s.isWritten m = false ∨ s.isWritten n = false) : ∃ t, exec i s = .next t ∧ t.runFault = true := by
  rcases unwritten with first | second
  · exact exec_marks_run (by simp [sources]) first
  · exact exec_marks_run (by simp [sources]) second

/-- No step clears the mark, whatever its event. -/
theorem step_keeps_runFault {s t : State} (next : step s = .next t) (marked : s.runFault = true) :
    t.runFault = true := by
  cases step_event next with
  | completion i busy pend run => exact (ownFields_of_exec run).runFault.mpr (.inl marked)
  | quiet l d m keeps => exact keeps marked
  | acceptance w i rest op idle legal => exact (State.noteReads_runFault_iff _ _).mpr (.inl marked)
  | error o c info d rest src op => simpa using marked
  | statusWrite | ctrlWrite | fieldWrite | reset => exact marked

/-- Settles O38: an acceptance reads the sources, reset keeps the mark, a completion marks the run as its sources say,
and no event clears the mark. -/
theorem unwrittenReadMarksTheRun : Obligations.UnwrittenReadMarksTheRun := by
  unfold Obligations.UnwrittenReadMarksTheRun
  refine ⟨?_, ?_, ?_, ?_, ?_, fun s t => step_keeps_runFault⟩
  · intro s w i rest idle legal
    exact ⟨_, _, step_accept (.reset :: rest) idle legal, State.noteReads_runFault_iff _ _, rfl, rfl, rfl⟩
  · intro rd rs1 rs2 b
    exact ⟨rfl, rfl, sourcesOf_twoOperand rd rs1, sourcesOf_threeOperand rd rs1 rs2⟩
  · intro s rd rs1 rs2 b unwritten
    exact ⟨exec_marks_run_of_pair rfl unwritten,
      fun mk mem => exec_marks_run_of_pair (sourcesOf_threeOperand rd rs1 rs2 mk mem) unwritten⟩
  · intro s rd rs1 unwritten mk mem
    exact exec_marks_run (by simp [sourcesOf_twoOperand rd rs1 mk mem]) unwritten
  · intro s n j rest unwritten idle
    exact ⟨_, step_readField_idle idle n j rest, by simp [unwritten]⟩

end Sys2Proof.Machine
end
